-- ==== Sys2Proof/Word.lean ====
section
/-! DEFINITION. The words of CORE: data registers and real values (64 bits), command words and control registers
(32 bits), the 4-bit register and instance numbers of a command word, and the named binary64 constants. -/

namespace Sys2Proof

/-- `U64` (00_scope R8): the contents of a data register, an unsigned 64-bit pattern. -/
abbrev U64 := BitVec 64

/-- `F64` (00_scope R8, R10): a binary64 value, held as its bit pattern, so that `bits` and `f64` are the identity
("both are total and inverse to each other"). -/
abbrev F64 := BitVec 64

/-- A 32-bit word: a command word, a control register, a host transaction's data. -/
abbrev Word32 := BitVec 32

/-- A data register number `x0` .. `x15` (10_state R30). Its addition wraps from `x15` to `x0` (30_encoding R95). -/
abbrev Reg := BitVec 4

/-- An instance number, the `inst` field of a command word (30_encoding R91). -/
abbrev Idx := BitVec 4

/-- Sixteen like things under a 4-bit number: the data registers, and the instances of one unit. -/
abbrev Bank (α : Type) := Vector α 16

/-! ## Constants (00_scope R14): decimal literals are the nearest binary64 values. -/

namespace Const

/-- `+0.0`. -/
def zero : F64 := 0x0000000000000000#64
/-- `0.5`. -/
def half : F64 := 0x3FE0000000000000#64
/-- `1.0`. -/
def one : F64 := 0x3FF0000000000000#64
/-- `-1.0`. -/
def negOne : F64 := 0xBFF0000000000000#64
/-- `2.0`. -/
def two : F64 := 0x4000000000000000#64
/-- `-2.0`. -/
def negTwo : F64 := 0xC000000000000000#64
/-- `10.0`. -/
def ten : F64 := 0x4024000000000000#64
/-- `20.0`. -/
def twenty : F64 := 0x4034000000000000#64
/-- `PI`, the binary64 value nearest π (00_scope R14). -/
def pi : F64 := 0x400921FB54442D18#64
/-- `-inf`. -/
def negInf : F64 := 0xFFF0000000000000#64
/-- `+inf`. -/
def posInf : F64 := 0x7FF0000000000000#64

/-- `Q_BUTTER`, the binary64 nearest 1/√2 (00_scope R7, fixed). -/
def qButter : F64 := 0x3FE6A09E667F3BCD#64
/-- `SHELF_DB_CLAMP` = 90.0 (00_scope R7, fixed). -/
def shelfDbClamp : F64 := 0x4056800000000000#64
/-- `-SHELF_DB_CLAMP` = -90.0. -/
def negShelfDbClamp : F64 := 0xC056800000000000#64
/-- `TENSION_SCALE` = 50.0 (00_scope R7, fixed). -/
def tensionScale : F64 := 0x4049000000000000#64
/-- `TENSION_EXP` = 1.1 (00_scope R7, fixed). -/
def tensionExp : F64 := 0x3FF199999999999A#64

end Const

end Sys2Proof
end

