-- ==== Sys2Proof/Syntax.lean ====
section
/-! DEFINITION. The commands of CORE: one constructor of `Instr` per row of the opcode table (30_encoding R96), with the
selectors of the `imm8` field as named values (30_encoding R94). -/

namespace Sys2Proof

/-- A filter response kind (10_state R44). -/
inductive FilterKind where
  /-- 0 `LP`, low-pass. -/
  | lp
  /-- 1 `HP`, high-pass. -/
  | hp
  /-- 2 `AP`, all-pass. -/
  | ap
  /-- 3 `LS`, low shelf. -/
  | ls
  /-- 4 `HS`, high shelf. -/
  | hs
  deriving DecidableEq, Repr

/-- A splitter topology (10_state R47). -/
inductive Topo where
  /-- 0 `2B24`, two bands at 24 dB/oct. -/
  | b2x24
  /-- 1 `2B12`, two bands at 12 dB/oct. -/
  | b2x12
  /-- 2 `3B12`, three bands at 12 dB/oct. -/
  | b3x12
  /-- 3 `3B24`, three bands at 24 dB/oct. -/
  | b3x24
  /-- 4 `DYN3`, dynamic three-band gain by shelves. -/
  | dyn3
  deriving DecidableEq, Repr

/-- A curve kind of a pattern point (10_state R52). -/
inductive CurveKind where
  /-- 0 -/
  | hold
  /-- 1 -/
  | curve
  /-- 2 -/
  | sCurve
  /-- 3, evaluation unimplemented (45_pattern R214) -/
  | pulse
  /-- 4, evaluation unimplemented -/
  | wave
  /-- 5, evaluation unimplemented -/
  | triangle
  /-- 6, evaluation unimplemented -/
  | stairs
  /-- 7, evaluation unimplemented -/
  | smoothStairs
  deriving DecidableEq, Repr

/-- An envelope curve selector (44_envelope R181): the values 2 to 7 of the four bits are reserved and have no name. -/
inductive CurveSel where
  /-- 0 `SINE`, ease-in-sine. -/
  | sine
  /-- 1 `IOSINE`, ease-in-out-sine. -/
  | ioSine
  /-- 8 + k `PATk`, the pattern instance `k`. -/
  | pat (k : BitVec 3)
  deriving DecidableEq, Repr

/-- The field selectors of `BQ.RD`, 0 to 8 in this order (40_biquad R115). -/
inductive BqField where
  | b0 | b1 | b2 | a1 | a2 | x1 | x2 | y1 | y2
  deriving DecidableEq, Repr

/-- The field selectors of `SVF.RD`, 0 to 12 in this order (41_svf R127). -/
inductive SvfField where
  | a1 | a2 | a3 | m0 | m1 | m2 | ic1eq | ic2eq | f | q | sr | gain | kind
  deriving DecidableEq, Repr

/-- The field selectors of `ENV.RD`, 0 to 7 in this order (44_envelope R192). -/
inductive EnvField where
  | delay | attack | release | delayRem | attackRem | releaseRem | phase | curves
  deriving DecidableEq, Repr

/-- The commands, one constructor per row of `opcode_table.json`. `inst` is the instance field, `rd` the destination
register (or first of a destination block), `rs1` and `rs2` the sources (or first of a source block). -/
inductive Instr where
  /-- `NOP` (R240). -/
  | nop
  /-- `SRST` (R241). -/
  | srst
  /-- `BQ.INIT` (R110). -/
  | bqInit (inst : Idx) (rs1 : Reg)
  /-- `BQ.SETC` (R111). -/
  | bqSetc (inst : Idx) (rs1 : Reg)
  /-- `BQ.PROC` (R112). -/
  | bqProc (inst : Idx) (rd rs1 : Reg)
  /-- `BQ.STAB` (R113). -/
  | bqStab (inst : Idx) (rd : Reg)
  /-- `BQ.DSGN` (R114); only the kinds `LP`, `HP`, `AP` are well formed. -/
  | bqDsgn (inst : Idx) (rs1 : Reg) (kind : FilterKind)
  /-- `BQ.RD` (R115). -/
  | bqRd (inst : Idx) (rd : Reg) (field : BqField)
  /-- `SVF.INIT` (R120). -/
  | svfInit (inst : Idx) (rs1 : Reg) (kind : FilterKind)
  /-- `SVF.SETF` (R122). -/
  | svfSetf (inst : Idx) (rs1 : Reg)
  /-- `SVF.SETQ` (R123). -/
  | svfSetq (inst : Idx) (rs1 : Reg)
  /-- `SVF.SETSR` (R124). -/
  | svfSetsr (inst : Idx) (rs1 : Reg)
  /-- `SVF.SETG` (R125). -/
  | svfSetg (inst : Idx) (rs1 : Reg)
  /-- `SVF.PROC` (R126). -/
  | svfProc (inst : Idx) (rd rs1 : Reg)
  /-- `SVF.RD` (R127). -/
  | svfRd (inst : Idx) (rd : Reg) (field : SvfField)
  /-- `SPL.INIT` (R155). -/
  | splInit (inst : Idx) (rs1 : Reg) (topo : Topo)
  /-- `SPL.SETF` (R157). -/
  | splSetf (inst : Idx) (rs1 : Reg)
  /-- `SPL.SPLIT` (R160). -/
  | splSplit (inst : Idx) (rd rs1 : Reg)
  /-- `SPL.GAIN` (R172). -/
  | splGain (inst : Idx) (rd rs1 rs2 : Reg)
  /-- `SPL.RD` (R175); well formed for slot 0..8 with field 0..12, and slot 15 with field 0..3. -/
  | splRd (inst : Idx) (rd : Reg) (slot field : BitVec 4)
  /-- `ENV.INIT` (R182). -/
  | envInit (inst : Idx) (rs1 : Reg) (acurve rcurve : CurveSel)
  /-- `ENV.TICK` (R184). -/
  | envTick (inst : Idx) (rd : Reg)
  /-- `ENV.SETREL` (R188). -/
  | envSetrel (inst : Idx) (rs1 : Reg)
  /-- `ENV.PROG` (R190). -/
  | envProg (inst : Idx) (rd : Reg)
  /-- `ENV.DUR` (R191). -/
  | envDur (inst : Idx) (rd : Reg)
  /-- `ENV.RD` (R192). -/
  | envRd (inst : Idx) (rd : Reg) (field : EnvField)
  /-- `PAT.DFLT` (R200). -/
  | patDflt (inst : Idx)
  /-- `PAT.CLR` (R201). -/
  | patClr (inst : Idx)
  /-- `PAT.EVAL` (R210). -/
  | patEval (inst : Idx) (rd rs1 : Reg)
  /-- `PAT.INS` (R204). -/
  | patIns (inst : Idx) (rs1 : Reg) (kind : CurveKind)
  /-- `PAT.RM` (R205). -/
  | patRm (inst : Idx) (rs1 : Reg)
  /-- `PAT.RMPOS` (R206). -/
  | patRmpos (inst : Idx) (rd rs1 : Reg)
  /-- `PAT.RMRNG` (R207). -/
  | patRmrng (inst : Idx) (rd rs1 : Reg)
  /-- `PAT.INV` (R208). -/
  | patInv (inst : Idx)
  /-- `PAT.REV` (R209). -/
  | patRev (inst : Idx)
  /-- `PAT.RDPT` (R228). -/
  | patRdpt (inst : Idx) (rd rs1 : Reg)
  /-- `PAT.LEN` (R229). -/
  | patLen (inst : Idx) (rd : Reg)
  /-- `PAT.SCLR` (R225). -/
  | patSclr
  /-- `PAT.SPUSH` (R226). -/
  | patSpush (rs1 : Reg) (kind : CurveKind)
  /-- `PAT.SCOMMIT` (R227). -/
  | patScommit (inst : Idx)
  deriving DecidableEq, Repr

end Sys2Proof
end

