-- ==== Sys2Proof/Config.lean ====
section
/-! DEFINITION. What an implementation of CORE fixes: the parameters `cfg` of 00_scope R7 as plain data, and, as opaque
constants, what the spec leaves unspecified (the elementary functions outside their named properties, the sign and
payload of a NaN result, replacement coefficient strategies). -/

namespace Sys2Proof

/-- `curve_pwr` (45_pattern R215): which exponent function the kinds `Curve` and `SCurve` use. -/
inductive CurvePwr where
  /-- `PWR_FIX`, `pow(1.1, |tension *. 50|)`, the default. -/
  | fix
  /-- `PWR_DOC`, `pow(|tension *. 50|, 1.1)`, the document's literal. -/
  | doc
  deriving DecidableEq, Repr

/-- What a NaN gain does to the mix coefficient `m0` of the default low-shelf strategy. DESIGN CHOICE (log entry 14):
43_splitter R171 says that a NaN shelf gain makes every coefficient of that shelf a NaN, while the low-shelf formula of
42_coefficients R143 has the constant `m0 = 1.0`; so it is a parameter, as `curve_pwr` is. -/
inductive NanShelf where
  /-- `m0` is a NaN too (43_splitter R171), the default. -/
  | everyCoefficient
  /-- `m0` is 1.0 (42_coefficients R143). -/
  | formula
  deriving DecidableEq, Repr

/-- `bq_strategy`, `svf_strategy` (00_scope R7, D25): the strategies of 42_coefficients, or an implementation's own. -/
inductive Strategies where
  /-- The defaults of 42_coefficients R140 to R143 and R145 to R148. -/
  | default
  /-- Replacement strategies, numbered. DESIGN CHOICE (log entry 4): the SVF low-pass, which the document gives in full
  (R140), is kept. -/
  | custom (n : Nat)
  deriving DecidableEq, Repr

/-- How much is fixed of the elementary functions `tan`, `sin`, `cos`, `pow`, `log10` (00_scope R7: "total F64 functions").
DESIGN CHOICE (log entry 3): R13 lets a proof assume its named properties only, while corner cases of other rules speak of
more; so it is a parameter, and a claim over every `cfg` assumes no more than R13 names. -/
inductive Elementary where
  /-- The named properties of 00_scope R13 and nothing else. -/
  | named
  /-- Also what the derived corner cases of 42_coefficients R144, R149, 43_splitter R171, R172 and 45_pattern R212, R213
  say of them: NaN at an infinity, finite values, a finite exponent above zero, at -0.0 the values of +0.0. What
  44_envelope R181 says of the easing curves at 1 is fixed in neither. -/
  | regular
  deriving DecidableEq, Repr

/-- The configuration record `cfg` of 00_scope R7, without the parameters whose value the spec fixes, and with two of the
model's own, `nanShelf` and `elementary` (log entries 14 and 3). -/
structure Cfg where
  /-- `N_BQ`, 1..16. -/
  nBq : Nat
  /-- `N_SVF`, 1..16. -/
  nSvf : Nat
  /-- `N_SPL`, 1..16. -/
  nSpl : Nat
  /-- `N_ENV`, 1..16. -/
  nEnv : Nat
  /-- `N_PAT`, 1..8. -/
  nPat : Nat
  /-- `PAT_MAX_PTS`, 2..65535. -/
  patMaxPts : Nat
  /-- `Q_LR2`, > 0. -/
  qLr2 : F64
  /-- `Q_AP12`, > 0. -/
  qAp12 : F64
  /-- `Q_AP24`, > 0. -/
  qAp24 : F64
  /-- `Q_SHELF`, > 0. -/
  qShelf : F64
  /-- `SPL3_24_INVERT`. -/
  spl324Invert : Bool
  /-- `curve_pwr`. -/
  curvePwr : CurvePwr
  /-- `ftz`. -/
  ftz : Bool
  /-- What a NaN gain does to `m0` of the default low shelf (log entry 14). -/
  nanShelf : NanShelf
  /-- `tan`, `sin`, `cos`, `pow`, `log10`: how much is fixed of them (log entry 3). -/
  elementary : Elementary
  /-- `bq_strategy`. -/
  bqStrategies : Strategies
  /-- `svf_strategy`. -/
  svfStrategies : Strategies
  deriving DecidableEq, Repr

/-- The defaults of 00_scope R7. -/
def Cfg.default : Cfg where
  nBq := 8
  nSvf := 8
  nSpl := 4
  nEnv := 8
  nPat := 8
  patMaxPts := 64
  qLr2 := Const.half
  qAp12 := Const.half
  qAp24 := Const.qButter
  qShelf := Const.qButter
  spl324Invert := false
  curvePwr := .fix
  ftz := false
  nanShelf := .everyCoefficient
  elementary := .regular
  bqStrategies := .default
  svfStrategies := .default

/-- The coefficient tuple of a biquad (10_state R42). -/
structure BqCoefs where
  b0 : F64
  b1 : F64
  b2 : F64
  a1 : F64
  a2 : F64
  deriving DecidableEq, Repr, Inhabited

/-- The coefficient tuple of an SVF (10_state R44). -/
structure SvfCoefs where
  a1 : F64
  a2 : F64
  a3 : F64
  m0 : F64
  m1 : F64
  m2 : F64
  deriving DecidableEq, Repr, Inhabited

/-- The operation that produced a NaN result. -/
inductive NanOp where
  | add | sub | mul | div | sqrt | tan | sin | cos | pow | log10
  deriving DecidableEq, Repr

/-! ## Free values: no body, so that nothing can be proved about their values. -/

/-- DESIGN CHOICE (log entry 2): sign and payload of the NaN that an operation on these operands gives (00_scope R12:
"its sign and payload are unspecified"). Bit 51 is the sign, bits 50..0 the payload below the quiet bit. -/
opaque Config.nanBits : NanOp → F64 → F64 → BitVec 52

/-- `cfg.tan` where no named property of 00_scope R13 fixes it (log entry 3). -/
opaque Config.tanRaw : F64 → F64

/-- `cfg.sin` where no named property of 00_scope R13 fixes it (log entry 3). -/
opaque Config.sinRaw : F64 → F64

/-- `cfg.cos` where no named property of 00_scope R13 fixes it (log entry 3). -/
opaque Config.cosRaw : F64 → F64

/-- `cfg.pow` (base, exponent) where no named property of 00_scope R13 fixes it (log entry 3). -/
opaque Config.powRaw : F64 → F64 → F64

/-- `cfg.log10` where no named property of 00_scope R13 fixes it (log entry 3). -/
opaque Config.log10Raw : F64 → F64

/-- An implementation's own `bq_strategy` number `n` (42_coefficients R135; log entry 4). -/
opaque Config.bqStrategy (n : Nat) (kind : FilterKind) (f q sr : F64) : BqCoefs

/-- An implementation's own `svf_strategy` number `n`, for the kinds other than `LP` (42_coefficients R139). DESIGN CHOICE
(log entry 4): it is any function of its arguments, as 00_scope R7 allows, so it may read `gain` for `HP` and `AP` too, where
the default strategies ignore it. -/
opaque Config.svfStrategy (n : Nat) (kind : FilterKind) (f q sr gain : F64) : SvfCoefs

end Sys2Proof
end

