-- ==== Sys2Proof/Machine/State.lean ====
section
/-! DEFINITION. The state of CORE (10_state R30 to R56) as plain data, the transactions of the host port (20_memory R70),
and the state right after reset (R56). -/

namespace Sys2Proof.Machine

/-- Faults of the MODEL: none. Every fault of CORE is a state of CORE (60_exceptions R255: the fault registers are written
and CORE goes on serving the host), and a bus error is an answer of the port (20_memory R75), so no step of this
machine stops (log entry 6). Safe: nothing can be proved from it but that no step faults. -/
inductive Fault
  deriving DecidableEq, Repr

/-- Refusals of the MODEL: an instruction without a meaning. -/
inductive Refusal where
  /-- Raised by an arm of `exec` whose instruction has no meaning yet; no arm does. Safe: the machine stops. -/
  | notModelled (mnemonic : String)
  deriving DecidableEq, Repr

/-! ## Control registers -/

/-- The result codes of `STATUS.RC` (10_state R36). -/
inductive ResultCode where
  /-- 0: completed, results (if any) written. -/
  | ok
  /-- 1: `ENV.TICK` on a Complete envelope. -/
  | noValue
  /-- 2: point construction failed. -/
  | badPoint
  /-- 3: pattern construction from a list failed. -/
  | badPattern
  /-- 4: removal of the first or last point. -/
  | boundary
  /-- 5: index out of bounds. -/
  | index
  /-- 6: the point store has no room. -/
  | full
  deriving DecidableEq, Repr

/-- The fault causes of `FAULT.CAUSE` (60_exceptions R251). -/
inductive FaultCause where
  /-- 1: the word selects no command. -/
  | illegalCmd
  /-- 2: the instance does not exist. -/
  | badInstance
  /-- 3: the instance is not constructed. -/
  | uninit
  /-- 4: the operation does not belong to the topology. -/
  | topology
  /-- 5: the selected segment has an unimplemented kind. -/
  | unimplCurve
  /-- 6: no segment brackets the evaluation point. -/
  | noBracket
  deriving DecidableEq, Repr

/-! ## Instances -/

/-- A biquad (10_state R42): five coefficients, two past inputs, two past outputs. -/
structure Biquad where
  b0 : F64
  b1 : F64
  b2 : F64
  a1 : F64
  a2 : F64
  /-- The most recent past input. -/
  x1 : F64
  /-- The past input before it. -/
  x2 : F64
  /-- The most recent past output. -/
  y1 : F64
  /-- The past output before it. -/
  y2 : F64
  deriving DecidableEq, Repr

/-- An SVF (10_state R44): six coefficients, two integrators, the current parameters and the response kind. -/
structure Svf where
  a1 : F64
  a2 : F64
  a3 : F64
  m0 : F64
  m1 : F64
  m2 : F64
  ic1eq : F64
  ic2eq : F64
  f : F64
  q : F64
  sr : F64
  /-- The linear shelf gain G. -/
  gain : F64
  kind : FilterKind
  deriving DecidableEq, Repr

/-- The topology of a splitter with the private filter slots it uses, in slot order, and the second crossover frequency
where the topology has one (10_state R46, R47). A slot the topology does not use, and `f2` of a two-band topology,
hold no value and are absent. -/
inductive SplBody where
  /-- `2B24`: slots 0, 1 low-pass, 2, 3 high-pass biquads at `f1`. -/
  | b2x24 (s0 s1 s2 s3 : Biquad)
  /-- `2B12`: slot 0 low-pass, slot 1 high-pass SVF at `f1`. -/
  | b2x12 (s0 s1 : Svf)
  /-- `3B12`: slots 0, 1 low-pass and high-pass SVF at `f1`; 2, 3, 4 all-pass, low-pass, high-pass SVF at `f2`. -/
  | b3x12 (f2 : F64) (s0 s1 s2 s3 s4 : Svf)
  /-- `3B24`: slots 0, 1 low-pass and 2, 3 high-pass biquads at `f1`; 4 all-pass, 5, 6 low-pass, 7, 8 high-pass
  biquads at `f2`. -/
  | b3x24 (f2 : F64) (s0 s1 s2 s3 s4 s5 s6 s7 s8 : Biquad)
  /-- `DYN3`: slot 0 low shelf at `f1`, slot 1 high shelf at `f2`. -/
  | dyn3 (f2 : F64) (s0 s1 : Svf)
  deriving DecidableEq, Repr

/-- A splitter (10_state R46). -/
structure Splitter where
  f1 : F64
  sr : F64
  body : SplBody
  deriving DecidableEq, Repr

/-- An envelope (10_state R48): the three totals and remaining counters, in samples, and the two curve selectors. -/
structure Envelope where
  delay : F64
  attack : F64
  release : F64
  delayRem : F64
  attackRem : F64
  releaseRem : F64
  acurve : CurveSel
  rcurve : CurveSel
  deriving DecidableEq, Repr

/-- A point record (10_state R52). -/
structure Point where
  x : F64
  y : F64
  tension : F64
  kind : CurveKind
  deriving DecidableEq, Repr

/-- A pattern (10_state R51): the two boundary points and, between them, the interior points (`mid_points`). DESIGN CHOICE
(log entry 10): in this form a pattern has two points or more. -/
structure Pattern where
  /-- `pt[0]`. -/
  first : Point
  /-- `pt[1]` .. `pt[n-2]`. -/
  mid : List Point
  /-- `pt[n-1]`. -/
  last : Point
  deriving DecidableEq, Repr

/-- The default pattern (10_state R56, 45_pattern R200): (0,0) and (1,1), kind Curve, tension 0. -/
def Pattern.default : Pattern where
  first := ⟨Const.zero, Const.zero, Const.zero, .curve⟩
  mid := []
  last := ⟨Const.one, Const.one, Const.zero, .curve⟩

/-! ## The host port -/

/-- The widths of a transaction that CORE does not support (20_memory R74). -/
inductive OddWidth where
  | byte | half | double
  deriving DecidableEq, Repr

/-- What the host does to CORE: transactions of the host port (20_memory R70), and the reset input (70_reset R280). -/
inductive HostTxn where
  /-- `MemRead(off, 4)`. -/
  | read (off : Nat)
  /-- `MemWrite(off, 4, v)`. -/
  | write (off : Nat) (v : Word32)
  /-- A transaction of 8, 16 or 64 bits; `store` says whether it is a write. -/
  | oddWidth (store : Bool) (off : Nat) (width : OddWidth)
  /-- The reset input is asserted (`true`) or released (`false`). -/
  | resetLine (asserted : Bool)
  deriving DecidableEq, Repr

/-- What the port last answered. -/
inductive PortReply where
  /-- Nothing yet, or an event that has no answer (the reset input, a transaction while reset is asserted). -/
  | silent
  /-- A completed read, with its word. -/
  | data (v : Word32)
  /-- A completed write. -/
  | written
  /-- A bus error (20_memory R74, R75). -/
  | busError
  deriving DecidableEq, Repr

/-! ## The state -/

/-- The state of CORE, with the host's side of the port. A bank has sixteen places because an instance number has four
bits; the places at or above the instance count of `cfg` stand for nothing and no command reaches them
(30_encoding R93). An instance whose `valid` bit is 0 is `none` (70_reset R281). Log entry 8. -/
structure State where
  /-- DESIGN CHOICE (log entry 1): the parameters `cfg` (00_scope R7) as a field, fixed for a run and written by no step. -/
  cfg : Cfg
  /-- The data registers `x0` .. `x15` (10_state R30). -/
  x : Bank U64
  /-- `STATUS.F` (10_state R36). -/
  faulted : Bool
  /-- `STATUS.RC` (10_state R36). -/
  rc : ResultCode
  /-- `FAULT.CAUSE` (10_state R37); `none` is 0, no fault. -/
  cause : Option FaultCause
  /-- `FAULTCMD` (10_state R38). -/
  faultCmd : Word32
  /-- `FAULTINFO` (10_state R39). -/
  faultInfo : Word32
  /-- The biquad instances (10_state R42). -/
  bq : Bank (Option Biquad)
  /-- The SVF instances (10_state R44). -/
  svf : Bank (Option Svf)
  /-- The splitter instances (10_state R46). -/
  spl : Bank (Option Splitter)
  /-- The envelope instances (10_state R48). -/
  env : Bank (Option Envelope)
  /-- The pattern instances (10_state R51). -/
  pat : Bank Pattern
  /-- The staging buffer (10_state R54). -/
  stg : List Point
  /-- The level of the reset input: asserted or not (70_reset R280). DESIGN CHOICE (log entry 7): a field of the state. -/
  inReset : Bool
  /-- DESIGN CHOICE (log entry 5): the host's transactions still to be issued, the next one first. The model's own field. -/
  host : List HostTxn
  /-- DESIGN CHOICE (log entries 5, 6): the port's answer to the last transaction. The model's own field. -/
  port : PortReply
  deriving DecidableEq, Repr

/-- The machine right after reset (10_state R56), with the default parameters (00_scope R7), the reset input released and
no transaction issued. -/
def State.reset : State where
  cfg := Cfg.default
  x := Vector.replicate 16 0
  faulted := false
  rc := .ok
  cause := none
  faultCmd := 0
  faultInfo := 0
  bq := Vector.replicate 16 none
  svf := Vector.replicate 16 none
  spl := Vector.replicate 16 none
  env := Vector.replicate 16 none
  pat := Vector.replicate 16 Pattern.default
  stg := []
  inReset := false
  host := []
  port := .silent

end Sys2Proof.Machine
end

