-- ==== Sys2Proof/Machine/F64.lean ====
section
/-! DEFINITION. Binary64 arithmetic (00_scope R10 to R15). A finite value is an integer number of units of 2^-1074, the
smallest subnormal; an operator computes its exact result as an integer or a ratio of integers of units and rounds it
once, to nearest, ties to even. -/

namespace Sys2Proof.Machine

/-! ## The parts of a pattern -/

/-- The magnitude pattern: the 63 bits below the sign. -/
def mag (a : F64) : Nat := a.toNat % 2 ^ 63

/-- The magnitude pattern of an infinity. -/
def infMag : Nat := 0x7FF0000000000000

/-- The value with this sign and this magnitude pattern. -/
def ofSignMag (sign : Bool) (m : Nat) : F64 := BitVec.ofNat 64 (if sign then 2 ^ 63 + m else m)

/-- A NaN: exponent all ones, fraction not zero. -/
def isNaN (a : F64) : Bool := infMag < mag a

/-- An infinity. -/
def isInf (a : F64) : Bool := mag a == infMag

/-- Neither a NaN nor an infinity. -/
def isFinite (a : F64) : Bool := mag a < infMag

/-- A zero of either sign. -/
def isZero (a : F64) : Bool := mag a == 0

/-- A subnormal: exponent field 0, fraction not zero. -/
def isSubnormal (a : F64) : Bool := 0 < mag a && mag a < 2 ^ 52

/-- The number of units of 2^-1074 in a finite magnitude pattern. -/
def units (m : Nat) : Nat := if m < 2 ^ 52 then m else (2 ^ 52 + m % 2 ^ 52) * 2 ^ (m / 2 ^ 52 - 1)

/-- A finite value as an integer number of units. -/
def value (a : F64) : Int := if a.msb then -(units (mag a) : Int) else units (mag a)

/-! ## Rounding (R11: to nearest, ties to even) -/

/-- The magnitude pattern for a significand of `shift` dropped bits, `up` if it rounds away from zero; at or beyond the
overflow threshold, the infinity. A carry out of the significand moves into the exponent field by itself. -/
def packMag (shift significand : Nat) (up : Bool) : Nat :=
  min (shift * 2 ^ 52 + significand + (if up then 1 else 0)) infMag

/-- The magnitude pattern nearest to `n / d` units, ties to even. `d` is not 0. -/
def roundRatio (n d : Nat) : Nat :=
  let shift := (n / d).log2 - 52
  let den := d * 2 ^ shift
  let q := n / den
  let r := n % den
  packMag shift q (den < 2 * r || (2 * r == den && q % 2 == 1))

/-- The `k` further bits of the integer square root of `n`, below the bits in `r`. -/
def sqrtBits : Nat → Nat → Nat → Nat
  | 0, _, r => r
  | k + 1, n, r => sqrtBits k n (if (r + 2 ^ k) * (r + 2 ^ k) ≤ n then r + 2 ^ k else r)

/-- The magnitude pattern nearest to the square root of `n` units squared, for `n` of at least 106 bits: the root of
the leading 105 or 106 bits is the 53-bit significand. -/
def roundSqrt (n : Nat) : Nat :=
  let shift := n.log2 / 2 - 52
  let q := sqrtBits 53 (n / 4 ^ shift) 0
  packMag shift q ((2 * q + 1) * (2 * q + 1) * 4 ^ shift < 4 * n)

/-! ## NaN results (R12) -/

/-- The quiet NaN an operation gives for its operands: sign and payload are free (log entry 2). -/
def freeNaN (op : NanOp) (a b : F64) : F64 :=
  (Config.nanBits op a b).extractLsb' 51 1 ++ 0xFFF#12 ++ (Config.nanBits op a b).extractLsb' 0 51

/-! ## Sign operations (R11): exact, NaN included -/

/-- `neg(a)` flips the sign bit. -/
def neg (a : F64) : F64 := a ^^^ 0x8000000000000000#64

/-- `abs.(a)` clears the sign bit. -/
def abs (a : F64) : F64 := a &&& 0x7FFFFFFFFFFFFFFF#64

/-! ## Comparisons (R15): IEEE quiet comparisons -/

/-- The order of the values that are not NaN: an integer that grows with the value, the same for both zeros. -/
def orderKey (a : F64) : Int := if a.msb then -(mag a : Int) else mag a

/-- `a < b`. -/
def lt (a b : F64) : Bool := !isNaN a && !isNaN b && decide (orderKey a < orderKey b)

/-- `a <= b`. -/
def le (a b : F64) : Bool := !isNaN a && !isNaN b && decide (orderKey a ≤ orderKey b)

/-- `a == b`. -/
def feq (a b : F64) : Bool := !isNaN a && !isNaN b && decide (orderKey a = orderKey b)

/-- `a > b`. -/
def gt (a b : F64) : Bool := lt b a

/-- `a >= b`. -/
def ge (a b : F64) : Bool := le b a

/-- `clamp(v, lo, hi)` (R15); a NaN `v` goes through. -/
def clamp (v lo hi : F64) : F64 := if lt v lo then lo else if gt v hi then hi else v

/-! ## The operators (R11, R12) -/

/-- The arithmetic of an implementation: whether it flushes subnormals to zero (`cfg.ftz`, R12), and how much is fixed of
its elementary functions (R13). -/
structure Arith where
  ftz : Bool
  elementary : Elementary
  deriving DecidableEq, Repr

/-- Under `ftz` a subnormal operand or result is a zero of the same sign (R12). -/
def Arith.flush (A : Arith) (a : F64) : F64 := if A.ftz && isSubnormal a then ofSignMag a.msb 0 else a

/-- The sum of two operands that are not NaN, `op` naming the operator for an invalid sum. -/
def sumOf (op : NanOp) (a b : F64) : F64 :=
  if isInf a then (if isInf b && a.msb != b.msb then freeNaN op a b else a)
  else if isInf b then b
  else
    let s := value a + value b
    if s = 0 then ofSignMag (a.msb && b.msb) 0
    else ofSignMag (decide (s < 0)) (roundRatio s.natAbs 1)

/-- `a +. b`. -/
def Arith.add (A : Arith) (a b : F64) : F64 :=
  if isNaN a || isNaN b then freeNaN .add a b
  else A.flush (sumOf .add (A.flush a) (A.flush b))

/-- `a -. b`. -/
def Arith.sub (A : Arith) (a b : F64) : F64 :=
  if isNaN a || isNaN b then freeNaN .sub a b
  else A.flush (sumOf .sub (A.flush a) (neg (A.flush b)))

/-- The product of two operands that are not NaN. -/
def productOf (a b : F64) : F64 :=
  let sign := a.msb != b.msb
  if isInf a || isInf b then
    if isZero a || isZero b then freeNaN .mul a b else ofSignMag sign infMag
  else ofSignMag sign (roundRatio (units (mag a) * units (mag b)) (2 ^ 1074))

/-- `a *. b`. -/
def Arith.mul (A : Arith) (a b : F64) : F64 :=
  if isNaN a || isNaN b then freeNaN .mul a b
  else A.flush (productOf (A.flush a) (A.flush b))

/-- The quotient of two operands that are not NaN. -/
def quotientOf (a b : F64) : F64 :=
  let sign := a.msb != b.msb
  if isInf a then (if isInf b then freeNaN .div a b else ofSignMag sign infMag)
  else if isInf b then ofSignMag sign 0
  else if isZero b then (if isZero a then freeNaN .div a b else ofSignMag sign infMag)
  else ofSignMag sign (roundRatio (units (mag a) * 2 ^ 1074) (units (mag b)))

/-- `a /. b`. -/
def Arith.div (A : Arith) (a b : F64) : F64 :=
  if isNaN a || isNaN b then freeNaN .div a b
  else A.flush (quotientOf (A.flush a) (A.flush b))

/-- The square root of an operand that is not a NaN. -/
def rootOf (a : F64) : F64 :=
  if isZero a then a
  else if a.msb then freeNaN .sqrt a a
  else if isInf a then a
  else ofSignMag false (roundSqrt (units (mag a) * 2 ^ 1074))

/-- `sqrt.(a)`. -/
def Arith.sqrt (A : Arith) (a : F64) : F64 :=
  if isNaN a then freeNaN .sqrt a a else A.flush (rootOf (A.flush a))

end Sys2Proof.Machine
end

