-- ==== Sys2Proof/Machine/Elementary.lean ====
section
/-! DEFINITION. The elementary functions of `cfg` (00_scope R13): total functions of their operands that have the named
properties, under `Elementary.regular` also those that the derived corner cases of other rules need, and are otherwise free
(log entry 3). -/

namespace Sys2Proof.Machine

/-- A NaN result is a quiet NaN (R12). -/
def quieten (a : F64) : F64 := if isNaN a then a ||| 0x0008000000000000#64 else a

/-- The corner cases beyond R13 are fixed (`Elementary.regular`). -/
def Arith.isRegular (A : Arith) : Bool := A.elementary == .regular

/-- A free result, kept to a property where the corner cases are fixed: one without it counts as `alt`, which has it. -/
def Arith.keep (A : Arith) (ok : F64 → Bool) (alt r : F64) : F64 := if A.isRegular && !ok r then alt else r

/-- The operand of a trigonometric function at which the result is a NaN: a NaN (R13), and an infinity where the corner
cases are fixed (42_coefficients R144, R149). -/
def Arith.noAngle (A : Arith) (a : F64) : Bool := isNaN a || (A.isRegular && isInf a)

/-- `tan` (R13): `tan(+0) = +0`. Regular: finite for a finite operand (42_coefficients R144), and a zero for -0.0 (log entry
3). -/
def tanF (A : Arith) (a : F64) : F64 :=
  if A.noAngle a then freeNaN .tan a a
  else if a = Const.zero then Const.zero
  else A.keep (fun r => if isZero a then isZero r else isFinite r || isInf a) Const.zero (quieten (Config.tanRaw a))

/-- `sin` (R13): `sin(+0) = +0`. Regular: a zero for -0.0, which 42_coefficients R149 needs at `f = 0` (log entry 3). -/
def sinF (A : Arith) (a : F64) : F64 :=
  if A.noAngle a then freeNaN .sin a a
  else if a = Const.zero then Const.zero
  else A.keep (fun r => !isZero a || isZero r) Const.zero (quieten (Config.sinRaw a))

/-- `cos` (R13): `cos(+0) = 1`. Regular: 1 for -0.0 too (42_coefficients R149 at `f = 0`, log entry 3). DESIGN CHOICE (log entry 3): R13 makes no claim of accuracy, so the cosines of the binary64
nearest π/2 and π are free, also under `regular`, though 44_envelope R181 says that both easing curves at 1 are within
rounding of 1. -/
def cosF (A : Arith) (a : F64) : F64 :=
  if A.noAngle a then freeNaN .cos a a
  else if a = Const.zero || (A.isRegular && isZero a) then Const.one
  else quieten (Config.cosRaw a)

/-- `log10` (R13): `log10(1) = +0`, `log10(±0) = -inf`, `log10(+inf) = +inf`, NaN below 0 and for a NaN. Regular: of a finite
positive operand it is finite in decibels (43_splitter R171, "`gb = gm` finite and positive gives `FromDb(+0.0)`"). -/
def log10F (A : Arith) (a : F64) : F64 :=
  if isNaN a then freeNaN .log10 a a
  else if isZero a then Const.negInf
  else if a.msb then freeNaN .log10 a a
  else if a = Const.one then Const.zero
  else if isInf a then Const.posInf
  else A.keep (fun r => isFinite (A.mul Const.twenty r)) Const.zero (quieten (Config.log10Raw a))

/-- A result of `pow` with a base that is `>= 0` is non-negative or NaN (R13). -/
def nonNegFor (b r : F64) : F64 := if ge b Const.zero && lt r Const.zero then abs r else r

/-- `lo <= v <= hi`. -/
def within (lo v hi : F64) : Bool := le lo v && le v hi

/-- Operands whose power is neither too large nor too small for a finite value above zero: 1 to 64 to an exponent 0 to 64, and
2^-512 to 1 to an exponent 0 to 2. Both forms of the exponent of 45_pattern R215 lie in it, `pow(|tension *. 50|, 1.1)` for a
base of 2^-512 or more. -/
def tamePower (b e : F64) : Bool :=
  (within Const.one b 0x4050000000000000#64 && within Const.zero e 0x4050000000000000#64)
    || (within 0x1FF0000000000000#64 b Const.one && within Const.zero e Const.two)

/-- `pow(b, e)` (R13): `pow(b, ±0) = 1` and `pow(1, e) = 1`, NaN operands included; else NaN for a NaN operand;
`pow(b, 1) = b`; `pow(+0, e) = +0` for finite `e > 0`; non-negative or NaN for `b >= 0`. Regular: finite and above zero for
tame operands, which the corner cases of 45_pattern R212 and R213 need of the exponent; and, DESIGN CHOICE (log entry 3), a
zero for `pow(-0, e)` with finite `e > 0`, of which R13 says nothing and which they need at `x = -0.0` on a segment that
starts at `+0.0`, where the operators give `t = -0`. -/
def powF (A : Arith) (b e : F64) : F64 :=
  if isZero e then Const.one
  else if b = Const.one then Const.one
  else if isNaN b || isNaN e then freeNaN .pow b e
  else if e = Const.one then b
  else if b = Const.zero && isFinite e && gt e Const.zero then Const.zero
  else if isZero b && isFinite e && gt e Const.zero then A.keep isZero Const.zero (nonNegFor b (quieten (Config.powRaw b e)))
  else A.keep (fun r => !tamePower b e || (isFinite r && gt r Const.zero)) Const.one
    (nonNegFor b (quieten (Config.powRaw b e)))

end Sys2Proof.Machine
end

