-- ==== Sys2Proof/Machine/Strategy.lean ====
section
/-! DEFINITION. The coefficient strategies (42_coefficients R135 to R150): pure functions from filter parameters to a
coefficient tuple. -/

namespace Sys2Proof.Machine

/-- The arithmetic of a configuration (00_scope R12 `ftz`, R13). -/
def fpOf (c : Cfg) : Arith := ⟨c.ftz, c.elementary⟩

/-! ## SVF strategies -/

/-- `k` and the three feedback coefficients of `SvfCore` (R137). -/
structure SvfCore where
  k : F64
  a1 : F64
  a2 : F64
  a3 : F64
  deriving DecidableEq, Repr

/-- `SvfCore(g, q)` (R137). -/
def svfCore (A : Arith) (g q : F64) : SvfCore :=
  let k := A.div Const.one q
  let a1 := A.div Const.one (A.add Const.one (A.mul g (A.add g k)))
  let a2 := A.mul g a1
  let a3 := A.mul g a2
  ⟨k, a1, a2, a3⟩

/-- `G0(f, sr) = tan((PI *. f) /. sr)` (R137). -/
def preWarp (A : Arith) (f sr : F64) : F64 := tanF A (A.div (A.mul Const.pi f) sr)

/-- The mix triple on the feedback coefficients of a core. -/
def SvfCore.mix (s : SvfCore) (m0 m1 m2 : F64) : SvfCoefs := ⟨s.a1, s.a2, s.a3, m0, m1, m2⟩

/-- SVF low-pass (R140). -/
def svfLowPass (A : Arith) (f q sr : F64) : SvfCoefs :=
  (svfCore A (preWarp A f sr) q).mix Const.zero Const.zero Const.one

/-- SVF high-pass (R141): mix (1, -k, -1). -/
def svfHighPass (A : Arith) (f q sr : F64) : SvfCoefs :=
  let s := svfCore A (preWarp A f sr) q
  s.mix Const.one (neg s.k) Const.negOne

/-- SVF all-pass (R142): mix (1, -2k, 0). -/
def svfAllPass (A : Arith) (f q sr : F64) : SvfCoefs :=
  let s := svfCore A (preWarp A f sr) q
  s.mix Const.one (neg (A.mul Const.two s.k)) Const.zero

/-- `m0` of the low shelf: 1.0 (R143), but for a NaN gain under `NanShelf.everyCoefficient`, where 43_splitter R171 has "A NaN
shelf gain makes every coefficient of that shelf NaN". DESIGN CHOICE (log entry 14). -/
def lowShelfM0 (n : NanShelf) (gain : F64) : F64 :=
  if n = .everyCoefficient ∧ isNaN gain = true then freeNaN .mul gain gain else Const.one

/-- SVF low shelf (R143), with `A = sqrt.(gain)` (R138) and `m0` as `lowShelfM0` says. -/
def svfLowShelf (n : NanShelf) (A : Arith) (f q sr gain : F64) : SvfCoefs :=
  let amp := A.sqrt gain
  let s := svfCore A (A.div (preWarp A f sr) (A.sqrt amp)) q
  s.mix (lowShelfM0 n gain) (A.mul s.k (A.sub amp Const.one)) (A.sub (A.mul amp amp) Const.one)

/-- SVF high shelf (R143), with `A = sqrt.(gain)` (R138). -/
def svfHighShelf (A : Arith) (f q sr gain : F64) : SvfCoefs :=
  let amp := A.sqrt gain
  let s := svfCore A (A.mul (preWarp A f sr) (A.sqrt amp)) q
  s.mix (A.mul amp amp) (A.mul (A.mul s.k (A.sub Const.one amp)) amp) (A.sub Const.one (A.mul amp amp))

/-- The default `svf_strategy` (R139). -/
def svfDefault (n : NanShelf) (A : Arith) (kind : FilterKind) (f q sr gain : F64) : SvfCoefs :=
  match kind with
  | .lp => svfLowPass A f q sr
  | .hp => svfHighPass A f q sr
  | .ap => svfAllPass A f q sr
  | .ls => svfLowShelf n A f q sr gain
  | .hs => svfHighShelf A f q sr gain

/-- `svf_strategy(kind, f, q, sr, gain)` (R139), or the implementation's own. DESIGN CHOICE (log entry 4): the low-pass is
the document's in either (R140), and an implementation's own strategy for `HP` or `AP` may depend on `gain`, which the
default strategies of those kinds ignore (R139). -/
def svfStrategy (c : Cfg) (kind : FilterKind) (f q sr gain : F64) : SvfCoefs :=
  match kind, c.svfStrategies with
  | .lp, _ => svfLowPass (fpOf c) f q sr
  | kind, .default => svfDefault c.nanShelf (fpOf c) kind f q sr gain
  | kind, .custom n => Config.svfStrategy n kind f q sr gain

/-! ## Biquad strategies -/

/-- The common part of the biquad strategies (R145). -/
structure BqCore where
  cw : F64
  alpha : F64
  a0 : F64
  a1 : F64
  a2 : F64
  deriving DecidableEq, Repr

/-- The common part of `bq_strategy` (R145). -/
def bqCore (A : Arith) (f q sr : F64) : BqCore :=
  let w0 := A.div (A.mul (A.mul Const.two Const.pi) f) sr
  let cw := cosF A w0
  let sw := sinF A w0
  let alpha := A.div sw (A.mul Const.two q)
  let a0 := A.add Const.one alpha
  ⟨cw, alpha, a0, A.div (A.mul Const.negTwo cw) a0, A.div (A.sub Const.one alpha) a0⟩

/-- Biquad low-pass (R146). -/
def bqLowPass (A : Arith) (f q sr : F64) : BqCoefs :=
  let c := bqCore A f q sr
  let t := A.sub Const.one c.cw
  let b0 := A.div (A.div t Const.two) c.a0
  ⟨b0, A.div t c.a0, b0, c.a1, c.a2⟩

/-- Biquad high-pass (R147). -/
def bqHighPass (A : Arith) (f q sr : F64) : BqCoefs :=
  let c := bqCore A f q sr
  let t := A.add Const.one c.cw
  let b0 := A.div (A.div t Const.two) c.a0
  ⟨b0, A.div (neg t) c.a0, b0, c.a1, c.a2⟩

/-- Biquad all-pass (R148). -/
def bqAllPass (A : Arith) (f q sr : F64) : BqCoefs :=
  let c := bqCore A f q sr
  ⟨A.div (A.sub Const.one c.alpha) c.a0, A.div (A.mul Const.negTwo c.cw) c.a0,
    A.div (A.add Const.one c.alpha) c.a0, c.a1, c.a2⟩

/-- `bq_strategy(kind, f, q, sr)` (R145), or the implementation's own. There is no biquad shelf (40_biquad R114 makes
those kinds illegal), and no command asks for one
(log entry 4). -/
def bqStrategy (c : Cfg) (kind : FilterKind) (f q sr : F64) : BqCoefs :=
  match c.bqStrategies, kind with
  | .custom n, kind => Config.bqStrategy n kind f q sr
  | .default, .hp => bqHighPass (fpOf c) f q sr
  | .default, .ap => bqAllPass (fpOf c) f q sr
  | .default, _ => bqLowPass (fpOf c) f q sr

end Sys2Proof.Machine
end

