-- ==== Sys2Proof/Machine/Curve.lean ====
section
/-! DEFINITION. Evaluating a pattern at a position (45_pattern R210 to R215), for `PAT.EVAL` and for the envelope's
pattern curves. -/

namespace Sys2Proof.Machine

/-- `pt[0]` .. `pt[n-1]` (10_state R51). -/
def Pattern.pts (p : Pattern) : List Point := p.first :: (p.mid ++ [p.last])

/-- The point count `n`, boundary points included (10_state R51). -/
def Pattern.count (p : Pattern) : Nat := p.mid.length + 2

/-- `CurvePwr(tension)` (R215). -/
def curvePwr (c : Cfg) (tension : F64) : F64 :=
  let A := fpOf c
  let t := abs (A.mul tension Const.tensionScale)
  match c.curvePwr with
  | .fix => powF A Const.tensionExp t
  | .doc => powF A t Const.tensionExp

/-- The branch `(pow(t, pwr) *. dy) +. y` (R212, R213). -/
def powerRise (A : Arith) (t pwr dy y : F64) : F64 := A.add (A.mul (powF A t pwr) dy) y

/-- The branch `(neg(pow(1.0 -. t, pwr) -. 1.0) *. dy) +. y` (R212, R213). -/
def powerFall (A : Arith) (t pwr dy y : F64) : F64 :=
  A.add (A.mul (neg (A.sub (powF A (A.sub Const.one t) pwr) Const.one)) dy) y

/-- `CurveY(p1, p2, x)` (R212). -/
def curveY (c : Cfg) (p1 p2 : Point) (x : F64) : F64 :=
  let A := fpOf c
  if feq p1.x p2.x then p2.y
  else
    let pwr := curvePwr c p1.tension
    let t := A.div (A.sub x p1.x) (A.sub p2.x p1.x)
    let dy := A.sub p2.y p1.y
    if ge p1.tension Const.zero then powerRise A t pwr dy p1.y else powerFall A t pwr dy p1.y

/-- `SCurveY(p1, p2, x)` (R213). -/
def sCurveY (c : Cfg) (p1 p2 : Point) (x : F64) : F64 :=
  let A := fpOf c
  if feq p1.x p2.x then p2.y
  else
    let pwr := curvePwr c p1.tension
    let xx := A.div (A.add p2.x p1.x) Const.two
    let yy := A.div (A.add p2.y p1.y) Const.two
    if lt x xx then
      let t := A.div (A.sub x p1.x) (A.sub xx p1.x)
      let dy := A.sub yy p1.y
      if ge p1.tension Const.zero then powerRise A t pwr dy p1.y else powerFall A t pwr dy p1.y
    else
      let t := A.div (A.sub x xx) (A.sub p2.x xx)
      let dy := A.sub p2.y yy
      if ge p1.tension Const.zero then powerFall A t pwr dy yy else powerRise A t pwr dy yy

/-- The least segment, counted from `j`, that brackets `x`, with its two points (R210). -/
def bracket (x : F64) (j : Nat) : List Point → Option (Nat × Point × Point)
  | [] => none
  | p1 :: rest =>
    match rest with
    | [] => none
    | p2 :: _ => if le p1.x x && le x p2.x then some (j, p1, p2) else bracket x (j + 1) rest

/-- `FAULTINFO` of `NO_BRACKET` (10_state R39, R210): the pattern index in bits 6:4. -/
def noBracketInfo (k : Idx) : Word32 := k.setWidth 32 <<< 4

/-- A curve-kind tag in a 32-bit word (10_state R52). -/
def kindWord : CurveKind → Word32
  | .hold => 0 | .curve => 1 | .sCurve => 2 | .pulse => 3 | .wave => 4 | .triangle => 5 | .stairs => 6
  | .smoothStairs => 7

/-- `FAULTINFO` of `UNIMPL_CURVE` (10_state R39, R210): segment index in bits 31:16, pattern index in bits 6:4, kind in
bits 2:0. -/
def unimplInfo (j : Nat) (k : Idx) (kind : CurveKind) : Word32 :=
  (BitVec.ofNat 32 (j % 65536) <<< 16) ||| (k.setWidth 32 <<< 4) ||| kindWord kind

/-- What evaluating a curve gives: a value, or the fault to raise with its information. -/
abbrev CurveResult := Except (FaultCause × Word32) F64

/-- The formula of the segment's kind (R210): the five unimplemented kinds raise `UNIMPL_CURVE` (R214). -/
def segmentY (c : Cfg) (k : Idx) (j : Nat) (p1 p2 : Point) (x : F64) : CurveResult :=
  match p1.kind with
  | .hold => .ok p1.y
  | .curve => .ok (curveY c p1 p2 x)
  | .sCurve => .ok (sCurveY c p1 p2 x)
  | .pulse | .wave | .triangle | .stairs | .smoothStairs => .error (.unimplCurve, unimplInfo j k p1.kind)

/-- `PatEval(k, x)` on the pattern `p` (R210). -/
def patEval (c : Cfg) (k : Idx) (p : Pattern) (x : F64) : CurveResult :=
  match bracket x 0 p.pts with
  | none => .error (.noBracket, noBracketInfo k)
  | some (j, p1, p2) => segmentY c k j p1 p2 x

end Sys2Proof.Machine
end

