-- ==== Sys2Proof/WellFormed.lean ====
section
/-! DEFINITION. Which terms of `Instr` are commands: the selector ranges of 30_encoding R94 that the selector types do not
already rule out. A term that is not well formed stands for an illegal command word (30_encoding R99). -/

namespace Sys2Proof

/-- The biquad strategies exist for `LP`, `HP` and `AP` only (40_biquad R114: "3 and above illegal"). -/
def FilterKind.forBiquad : FilterKind → Bool
  | .lp | .hp | .ap => true
  | .ls | .hs => false

/-- The selector range of `SPL.RD` (43_splitter R175): slot 0..8 with field 0..12, or slot 15 with field 0..3. -/
def splSelector (slot field : BitVec 4) : Bool :=
  (slot.toNat ≤ 8 && field.toNat ≤ 12) || (slot.toNat == 15 && field.toNat ≤ 3)

/-- The `imm8` of the command is in the range the command allows (30_encoding R94, R97 step 3). -/
def Instr.wellFormed : Instr → Bool
  | .bqDsgn _ _ kind => kind.forBiquad
  | .splRd _ _ slot field => splSelector slot field
  | .nop | .srst
  | .bqInit .. | .bqSetc .. | .bqProc .. | .bqStab .. | .bqRd ..
  | .svfInit .. | .svfSetf .. | .svfSetq .. | .svfSetsr .. | .svfSetg .. | .svfProc .. | .svfRd ..
  | .splInit .. | .splSetf .. | .splSplit .. | .splGain ..
  | .envInit .. | .envTick .. | .envSetrel .. | .envProg .. | .envDur .. | .envRd ..
  | .patDflt .. | .patClr .. | .patEval .. | .patIns .. | .patRm .. | .patRmpos .. | .patRmrng ..
  | .patInv .. | .patRev .. | .patRdpt .. | .patLen .. | .patSclr | .patSpush .. | .patScommit .. => true

/-- Well-formed commands, as a decidable proposition. -/
abbrev WellFormed (i : Instr) : Prop := i.wellFormed = true

end Sys2Proof
end

