-- ==== Sys2Proof/Decode.lean ====
section
/-! DEFINITION. Command words (30_encoding): the fields, the formats and their masks, the opcode map, the decoder
(total on 32-bit words, rejecting by name) and the encoder. -/

namespace Sys2Proof

/-! ## Fields (R91) -/

/-- `opcode`, bits 31:24. -/
def fieldOpcode (w : Word32) : BitVec 8 := w.extractLsb' 24 8
/-- `inst`, bits 23:20. -/
def fieldInst (w : Word32) : Idx := w.extractLsb' 20 4
/-- `rd`, bits 19:16. -/
def fieldRd (w : Word32) : Reg := w.extractLsb' 16 4
/-- `rs1`, bits 15:12. -/
def fieldRs1 (w : Word32) : Reg := w.extractLsb' 12 4
/-- `rs2`, bits 11:8. -/
def fieldRs2 (w : Word32) : Reg := w.extractLsb' 8 4
/-- `imm8`, bits 7:0. -/
def fieldImm (w : Word32) : BitVec 8 := w.extractLsb' 0 8

/-- The word with these fields (R91). -/
def packWord (opcode : BitVec 8) (inst : Idx) (rd rs1 rs2 : Reg) (imm : BitVec 8) : Word32 :=
  opcode ++ inst ++ rd ++ rs1 ++ rs2 ++ imm

/-! ## Formats (R92) -/

/-- The formats: which fields a command uses. -/
inductive Format where
  | z | i | id | is | ids | idss | ism | idm | sm
  deriving DecidableEq, Repr

/-- The mask of the bits a format fixes (opcode and unused fields), the table of R92. -/
def Format.mask : Format → Word32
  | .z    => 0xFFFFFFFF#32
  | .i    => 0xFF0FFFFF#32
  | .id   => 0xFF00FFFF#32
  | .is   => 0xFF0F0FFF#32
  | .ids  => 0xFF000FFF#32
  | .idss => 0xFF0000FF#32
  | .ism  => 0xFF0F0F00#32
  | .idm  => 0xFF00FF00#32
  | .sm   => 0xFFFF0F00#32

/-! ## The opcode map (R96) -/

/-- The rows of the opcode map. -/
inductive Op where
  | nop | srst
  | bqInit | bqSetc | bqProc | bqStab | bqDsgn | bqRd
  | svfInit | svfSetf | svfSetq | svfSetsr | svfSetg | svfProc | svfRd
  | splInit | splSetf | splSplit | splGain | splRd
  | envInit | envTick | envSetrel | envProg | envDur | envRd
  | patDflt | patClr | patEval | patIns | patRm | patRmpos | patRmrng | patInv | patRev
  | patRdpt | patLen | patSclr | patSpush | patScommit
  deriving DecidableEq, Repr

/-- The opcode and the format of a row (R96). -/
def Op.row : Op → BitVec 8 × Format
  | .nop        => (0x00, .z)
  | .srst       => (0x01, .z)
  | .bqInit     => (0x10, .is)
  | .bqSetc     => (0x11, .is)
  | .bqProc     => (0x12, .ids)
  | .bqStab     => (0x13, .id)
  | .bqDsgn     => (0x14, .ism)
  | .bqRd       => (0x15, .idm)
  | .svfInit    => (0x20, .ism)
  | .svfSetf    => (0x21, .is)
  | .svfSetq    => (0x22, .is)
  | .svfSetsr   => (0x23, .is)
  | .svfSetg    => (0x24, .is)
  | .svfProc    => (0x25, .ids)
  | .svfRd      => (0x26, .idm)
  | .splInit    => (0x30, .ism)
  | .splSetf    => (0x31, .is)
  | .splSplit   => (0x32, .ids)
  | .splGain    => (0x33, .idss)
  | .splRd      => (0x34, .idm)
  | .envInit    => (0x40, .ism)
  | .envTick    => (0x41, .id)
  | .envSetrel  => (0x42, .is)
  | .envProg    => (0x43, .id)
  | .envDur     => (0x44, .id)
  | .envRd      => (0x45, .idm)
  | .patDflt    => (0x50, .i)
  | .patClr     => (0x51, .i)
  | .patEval    => (0x52, .ids)
  | .patIns     => (0x53, .ism)
  | .patRm      => (0x54, .is)
  | .patRmpos   => (0x55, .ids)
  | .patRmrng   => (0x56, .ids)
  | .patInv     => (0x57, .i)
  | .patRev     => (0x58, .i)
  | .patRdpt    => (0x59, .ids)
  | .patLen     => (0x5A, .id)
  | .patSclr    => (0x5B, .z)
  | .patSpush   => (0x5C, .sm)
  | .patScommit => (0x5D, .i)

/-- The opcode of a row, bits 31:24. -/
def Op.code (o : Op) : BitVec 8 := o.row.1

/-- The format of a row. -/
def Op.format (o : Op) : Format := o.row.2

/-- The match value of a row: "`m` is the opcode in bits 31:24 and zero elsewhere" (R92). -/
def Op.matchWord (o : Op) : Word32 := packWord o.code 0 0 0 0 0

/-- Every row, in the table's order. -/
def Op.all : List Op :=
  [.nop, .srst,
   .bqInit, .bqSetc, .bqProc, .bqStab, .bqDsgn, .bqRd,
   .svfInit, .svfSetf, .svfSetq, .svfSetsr, .svfSetg, .svfProc, .svfRd,
   .splInit, .splSetf, .splSplit, .splGain, .splRd,
   .envInit, .envTick, .envSetrel, .envProg, .envDur, .envRd,
   .patDflt, .patClr, .patEval, .patIns, .patRm, .patRmpos, .patRmrng, .patInv, .patRev,
   .patRdpt, .patLen, .patSclr, .patSpush, .patScommit]

/-- The row with this opcode; none for a reserved opcode (R98). -/
def opOfCode (b : BitVec 8) : Option Op := Op.all.find? fun o => o.code == b

/-! ## Selectors of `imm8` (R94) -/

/-- The tag of a filter kind (10_state R44). -/
def FilterKind.imm : FilterKind → BitVec 8
  | .lp => 0 | .hp => 1 | .ap => 2 | .ls => 3 | .hs => 4

/-- The filter kind with this tag. -/
def FilterKind.ofImm (b : BitVec 8) : Option FilterKind :=
  [FilterKind.lp, .hp, .ap, .ls, .hs].find? fun k => k.imm == b

/-- The tag of a topology (10_state R47). -/
def Topo.imm : Topo → BitVec 8
  | .b2x24 => 0 | .b2x12 => 1 | .b3x12 => 2 | .b3x24 => 3 | .dyn3 => 4

/-- The topology with this tag. -/
def Topo.ofImm (b : BitVec 8) : Option Topo :=
  [Topo.b2x24, .b2x12, .b3x12, .b3x24, .dyn3].find? fun t => t.imm == b

/-- The tag of a curve kind (10_state R52). -/
def CurveKind.imm : CurveKind → BitVec 8
  | .hold => 0 | .curve => 1 | .sCurve => 2 | .pulse => 3 | .wave => 4 | .triangle => 5 | .stairs => 6
  | .smoothStairs => 7

/-- The curve kind with this tag. -/
def CurveKind.ofImm (b : BitVec 8) : Option CurveKind :=
  [CurveKind.hold, .curve, .sCurve, .pulse, .wave, .triangle, .stairs, .smoothStairs].find? fun k => k.imm == b

/-- The selector of a field of `BQ.RD` (40_biquad R115). -/
def BqField.imm : BqField → BitVec 8
  | .b0 => 0 | .b1 => 1 | .b2 => 2 | .a1 => 3 | .a2 => 4 | .x1 => 5 | .x2 => 6 | .y1 => 7 | .y2 => 8

/-- The field of `BQ.RD` with this selector. -/
def BqField.ofImm (b : BitVec 8) : Option BqField :=
  [BqField.b0, .b1, .b2, .a1, .a2, .x1, .x2, .y1, .y2].find? fun e => e.imm == b

/-- The selector of a field of `SVF.RD` (41_svf R127). -/
def SvfField.imm : SvfField → BitVec 8
  | .a1 => 0 | .a2 => 1 | .a3 => 2 | .m0 => 3 | .m1 => 4 | .m2 => 5 | .ic1eq => 6 | .ic2eq => 7
  | .f => 8 | .q => 9 | .sr => 10 | .gain => 11 | .kind => 12

/-- The field of `SVF.RD` with this selector. -/
def SvfField.ofImm (b : BitVec 8) : Option SvfField :=
  [SvfField.a1, .a2, .a3, .m0, .m1, .m2, .ic1eq, .ic2eq, .f, .q, .sr, .gain, .kind].find? fun e => e.imm == b

/-- The selector of a field of `ENV.RD` (44_envelope R192). -/
def EnvField.imm : EnvField → BitVec 8
  | .delay => 0 | .attack => 1 | .release => 2 | .delayRem => 3 | .attackRem => 4 | .releaseRem => 5
  | .phase => 6 | .curves => 7

/-- The field of `ENV.RD` with this selector. -/
def EnvField.ofImm (b : BitVec 8) : Option EnvField :=
  [EnvField.delay, .attack, .release, .delayRem, .attackRem, .releaseRem, .phase, .curves].find? fun e => e.imm == b

/-- The four bits of a curve selector (44_envelope R181). -/
def CurveSel.code : CurveSel → BitVec 4
  | .sine => 0
  | .ioSine => 1
  | .pat k => 1#1 ++ k

/-- The curve selector of four bits; none for the reserved 2 to 7 (44_envelope R181). -/
def CurveSel.ofCode (b : BitVec 4) : Option CurveSel :=
  if b.msb then some (.pat (b.extractLsb' 0 3))
  else if b = 0 then some .sine
  else if b = 1 then some .ioSine
  else none

/-- `imm8` of `ENV.INIT`: `rcurve*16 + acurve` (30_encoding R100). -/
def curvesImm (acurve rcurve : CurveSel) : BitVec 8 := rcurve.code ++ acurve.code

/-! ## The decoder (R97) -/

/-- Why a word is an illegal command (R99). -/
inductive Reject where
  /-- No row of R96 has this opcode (R98). -/
  | reservedOpcode
  /-- A field the format does not use is not zero (R92). -/
  | unusedField
  /-- `imm8` is outside the range the command allows (R94). -/
  | immRange
  deriving DecidableEq, Repr

/-- A selector that must be in range: its absence is `immRange` (R97 step 3). -/
def inRange {α : Type} (o : Option α) (k : α → Instr) : Except Reject Instr :=
  match o with
  | some a => .ok (k a)
  | none => .error .immRange

/-- The command of a row and a word that fits the row's format (R97 step 3). -/
def buildInstr (o : Op) (w : Word32) : Except Reject Instr :=
  match o with
  | .nop        => .ok .nop
  | .srst       => .ok .srst
  | .bqInit     => .ok (.bqInit (fieldInst w) (fieldRs1 w))
  | .bqSetc     => .ok (.bqSetc (fieldInst w) (fieldRs1 w))
  | .bqProc     => .ok (.bqProc (fieldInst w) (fieldRd w) (fieldRs1 w))
  | .bqStab     => .ok (.bqStab (fieldInst w) (fieldRd w))
  | .bqDsgn     =>
      inRange ((FilterKind.ofImm (fieldImm w)).filter FilterKind.forBiquad) (.bqDsgn (fieldInst w) (fieldRs1 w))
  | .bqRd       => inRange (BqField.ofImm (fieldImm w)) (.bqRd (fieldInst w) (fieldRd w))
  | .svfInit    => inRange (FilterKind.ofImm (fieldImm w)) (.svfInit (fieldInst w) (fieldRs1 w))
  | .svfSetf    => .ok (.svfSetf (fieldInst w) (fieldRs1 w))
  | .svfSetq    => .ok (.svfSetq (fieldInst w) (fieldRs1 w))
  | .svfSetsr   => .ok (.svfSetsr (fieldInst w) (fieldRs1 w))
  | .svfSetg    => .ok (.svfSetg (fieldInst w) (fieldRs1 w))
  | .svfProc    => .ok (.svfProc (fieldInst w) (fieldRd w) (fieldRs1 w))
  | .svfRd      => inRange (SvfField.ofImm (fieldImm w)) (.svfRd (fieldInst w) (fieldRd w))
  | .splInit    => inRange (Topo.ofImm (fieldImm w)) (.splInit (fieldInst w) (fieldRs1 w))
  | .splSetf    => .ok (.splSetf (fieldInst w) (fieldRs1 w))
  | .splSplit   => .ok (.splSplit (fieldInst w) (fieldRd w) (fieldRs1 w))
  | .splGain    => .ok (.splGain (fieldInst w) (fieldRd w) (fieldRs1 w) (fieldRs2 w))
  | .splRd      =>
      let slot := (fieldImm w).extractLsb' 4 4
      let field := (fieldImm w).extractLsb' 0 4
      if splSelector slot field then .ok (.splRd (fieldInst w) (fieldRd w) slot field) else .error .immRange
  | .envInit    =>
      inRange (CurveSel.ofCode ((fieldImm w).extractLsb' 0 4) |>.bind fun a =>
          (CurveSel.ofCode ((fieldImm w).extractLsb' 4 4)).map fun r => (a, r))
        fun ar => .envInit (fieldInst w) (fieldRs1 w) ar.1 ar.2
  | .envTick    => .ok (.envTick (fieldInst w) (fieldRd w))
  | .envSetrel  => .ok (.envSetrel (fieldInst w) (fieldRs1 w))
  | .envProg    => .ok (.envProg (fieldInst w) (fieldRd w))
  | .envDur     => .ok (.envDur (fieldInst w) (fieldRd w))
  | .envRd      => inRange (EnvField.ofImm (fieldImm w)) (.envRd (fieldInst w) (fieldRd w))
  | .patDflt    => .ok (.patDflt (fieldInst w))
  | .patClr     => .ok (.patClr (fieldInst w))
  | .patEval    => .ok (.patEval (fieldInst w) (fieldRd w) (fieldRs1 w))
  | .patIns     => inRange (CurveKind.ofImm (fieldImm w)) (.patIns (fieldInst w) (fieldRs1 w))
  | .patRm      => .ok (.patRm (fieldInst w) (fieldRs1 w))
  | .patRmpos   => .ok (.patRmpos (fieldInst w) (fieldRd w) (fieldRs1 w))
  | .patRmrng   => .ok (.patRmrng (fieldInst w) (fieldRd w) (fieldRs1 w))
  | .patInv     => .ok (.patInv (fieldInst w))
  | .patRev     => .ok (.patRev (fieldInst w))
  | .patRdpt    => .ok (.patRdpt (fieldInst w) (fieldRd w) (fieldRs1 w))
  | .patLen     => .ok (.patLen (fieldInst w) (fieldRd w))
  | .patSclr    => .ok .patSclr
  | .patSpush   => inRange (CurveKind.ofImm (fieldImm w)) (.patSpush (fieldRs1 w))
  | .patScommit => .ok (.patScommit (fieldInst w))

/-- The decoder (R97): the opcode's row, then `(w AND mask) == match`, then the selector's range. -/
def decode (w : Word32) : Except Reject Instr :=
  match opOfCode (fieldOpcode w) with
  | none => .error .reservedOpcode
  | some o => if w &&& o.format.mask = o.matchWord then buildInstr o w else .error .unusedField

/-! ## The encoder -/

/-- The row of a command. -/
def Instr.op : Instr → Op
  | .nop => .nop | .srst => .srst
  | .bqInit .. => .bqInit | .bqSetc .. => .bqSetc | .bqProc .. => .bqProc | .bqStab .. => .bqStab
  | .bqDsgn .. => .bqDsgn | .bqRd .. => .bqRd
  | .svfInit .. => .svfInit | .svfSetf .. => .svfSetf | .svfSetq .. => .svfSetq | .svfSetsr .. => .svfSetsr
  | .svfSetg .. => .svfSetg | .svfProc .. => .svfProc | .svfRd .. => .svfRd
  | .splInit .. => .splInit | .splSetf .. => .splSetf | .splSplit .. => .splSplit | .splGain .. => .splGain
  | .splRd .. => .splRd
  | .envInit .. => .envInit | .envTick .. => .envTick | .envSetrel .. => .envSetrel | .envProg .. => .envProg
  | .envDur .. => .envDur | .envRd .. => .envRd
  | .patDflt .. => .patDflt | .patClr .. => .patClr | .patEval .. => .patEval | .patIns .. => .patIns
  | .patRm .. => .patRm | .patRmpos .. => .patRmpos | .patRmrng .. => .patRmrng | .patInv .. => .patInv
  | .patRev .. => .patRev | .patRdpt .. => .patRdpt | .patLen .. => .patLen | .patSclr => .patSclr
  | .patSpush .. => .patSpush | .patScommit .. => .patScommit

/-- The command word of a command (R91, R92, R96): the fields its format uses, every other field zero. -/
def encode (i : Instr) : Word32 :=
  match i with
  | .nop | .srst | .patSclr => packWord i.op.code 0 0 0 0 0
  | .patDflt inst | .patClr inst | .patInv inst | .patRev inst | .patScommit inst => packWord i.op.code inst 0 0 0 0
  | .bqStab inst rd | .envTick inst rd | .envProg inst rd | .envDur inst rd | .patLen inst rd =>
      packWord i.op.code inst rd 0 0 0
  | .bqInit inst rs1 | .bqSetc inst rs1 | .svfSetf inst rs1 | .svfSetq inst rs1 | .svfSetsr inst rs1
  | .svfSetg inst rs1 | .splSetf inst rs1 | .envSetrel inst rs1 | .patRm inst rs1 =>
      packWord i.op.code inst 0 rs1 0 0
  | .bqProc inst rd rs1 | .svfProc inst rd rs1 | .splSplit inst rd rs1 | .patEval inst rd rs1
  | .patRmpos inst rd rs1 | .patRmrng inst rd rs1 | .patRdpt inst rd rs1 => packWord i.op.code inst rd rs1 0 0
  | .splGain inst rd rs1 rs2 => packWord i.op.code inst rd rs1 rs2 0
  | .bqDsgn inst rs1 kind => packWord i.op.code inst 0 rs1 0 kind.imm
  | .bqRd inst rd field => packWord i.op.code inst rd 0 0 field.imm
  | .svfInit inst rs1 kind => packWord i.op.code inst 0 rs1 0 kind.imm
  | .svfRd inst rd field => packWord i.op.code inst rd 0 0 field.imm
  | .splInit inst rs1 topo => packWord i.op.code inst 0 rs1 0 topo.imm
  | .splRd inst rd slot field => packWord i.op.code inst rd 0 0 (slot ++ field)
  | .envInit inst rs1 acurve rcurve => packWord i.op.code inst 0 rs1 0 (curvesImm acurve rcurve)
  | .envRd inst rd field => packWord i.op.code inst rd 0 0 field.imm
  | .patIns inst rs1 kind => packWord i.op.code inst 0 rs1 0 kind.imm
  | .patSpush rs1 kind => packWord i.op.code 0 0 rs1 0 kind.imm

/-- The instruction the decoder reads from the `nbits` low bits of `w`. A command is one 32-bit word (R90), so bit `n` of
the table is bit `n` of the word written to `CMD`. -/
def decodeTableWord (nbits w : Nat) : Option Instr :=
  match decode (BitVec.ofNat 32 (w % 2 ^ nbits)) with
  | .ok i => some i
  | .error _ => none

end Sys2Proof
end

