-- ==== Sys2Proof/Machine/Ops.lean ====
section
/-! DEFINITION. The named operations of CORE: reading and writing the data registers and the instances, raising a fault
(60_exceptions R255), the reset that ends it (46_system R241), and the three outcomes of a command (00_scope R17). -/

namespace Sys2Proof.Machine

/-! ## Banks -/

/-- The thing under a number. -/
def bankGet {α : Type} (b : Bank α) (i : BitVec 4) : α := b[i.toNat]'i.isLt

/-- The bank with the thing under one number replaced. -/
def bankSet {α : Type} (b : Bank α) (i : BitVec 4) (a : α) : Bank α := b.set i.toNat a i.isLt

/-! ## Reads and writes of the state -/

/-- `x[i]` (00_scope R9). -/
def State.getX (s : State) (r : Reg) : U64 := bankGet s.x r

/-- `x[i] <- v` (00_scope R9). -/
def State.setX (s : State) (r : Reg) (v : U64) : State := { s with x := bankSet s.x r v }

/-- `xr(rd, 0) <- v0; xr(rd, 1) <- v1; …` (30_encoding R95): consecutive registers, wrapping from `x15` to `x0`. -/
def State.setBlock (s : State) (rd : Reg) : List U64 → State
  | [] => s
  | v :: vs => (s.setX rd v).setBlock (rd + 1) vs

/-- Store a biquad, valid. -/
def State.setBq (s : State) (i : Idx) (b : Biquad) : State := { s with bq := bankSet s.bq i (some b) }

/-- Store an SVF, valid. -/
def State.setSvf (s : State) (i : Idx) (v : Svf) : State := { s with svf := bankSet s.svf i (some v) }

/-- Store a splitter, valid. -/
def State.setSpl (s : State) (i : Idx) (p : Splitter) : State := { s with spl := bankSet s.spl i (some p) }

/-- Store an envelope, valid. -/
def State.setEnv (s : State) (i : Idx) (e : Envelope) : State := { s with env := bankSet s.env i (some e) }

/-- `pat[i]`. -/
def State.getPat (s : State) (i : Idx) : Pattern := bankGet s.pat i

/-- Store a pattern. -/
def State.setPat (s : State) (i : Idx) (p : Pattern) : State := { s with pat := bankSet s.pat i p }

/-- The arithmetic of this machine. -/
def State.fp (s : State) : Arith := fpOf s.cfg

/-! ## Faults and reset -/

/-- `raise C(info)` (60_exceptions R255): the four fault registers, and nothing else. -/
def State.raise (s : State) (c : FaultCause) (cmd info : Word32) : State :=
  { s with faulted := true, cause := some c, faultCmd := cmd, faultInfo := info }

/-- Every piece of CORE's state at its reset value (10_state R56, 70_reset R280), the parameters unchanged (R283). The
reset input's level and the host's side of the port are not CORE's to reset. There is no other return from a fault
(60_exceptions R259). -/
def State.afterReset (s : State) : State :=
  { State.reset with cfg := s.cfg, inReset := s.inReset, host := s.host, port := s.port }

/-! ## The outcome of a command -/

/-- The three outcomes of a command (00_scope R17). -/
inductive CmdOutcome where
  /-- The command completes with a result code, in this state (but for `STATUS.RC`). -/
  | completes (rc : ResultCode) (s : State)
  /-- The command raises a fault. -/
  | faults (c : FaultCause) (info : Word32)
  /-- The command is refused because a fault is recorded. -/
  | refused

/-- The state after a command: `STATUS.RC` is written by a completing command only (10_state R36), a fault writes the
fault registers (60_exceptions R255), a refused command changes nothing (R257). -/
def settle (cmd : Word32) (s : State) (o : CmdOutcome) : Host.Outcome State Fault Refusal :=
  match o with
  | .completes rc t => .next { t with rc := rc }
  | .faults c info => .next (s.raise c cmd info)
  | .refused => .next s

/-- A command other than `SRST`: refused while `STATUS.F` is 1 (60_exceptions R253 step 1, R257), else as its rule says. A
fault records the command's word in `FAULTCMD` (10_state R38). -/
def command (i : Instr) (s : State) (body : CmdOutcome) : Host.Outcome State Fault Refusal :=
  settle (encode i) s (if s.faulted then .refused else body)

/-- A word that selects no command: `ILLEGAL_CMD` (30_encoding R99), refused while `STATUS.F` is 1. -/
def illegalWord (w : Word32) (s : State) : Host.Outcome State Fault Refusal :=
  settle w s (if s.faulted then .refused else .faults .illegalCmd 0)

end Sys2Proof.Machine
end

