-- ==== Sys2Proof/Machine/Operands.lean ====
section
/-! DEFINITION. Operand forms: register blocks (30_encoding R95) and the instance a command selects, with the checks that
come before the command's own rule (30_encoding R93, 60_exceptions R253 steps 3 and 4). -/

namespace Sys2Proof.Machine

/-- `xr(i, k) = x[(i + k) mod 16]` (30_encoding R95). -/
def State.xr (s : State) (r : Reg) (k : Nat) : U64 := s.getX (r + BitVec.ofNat 4 k)

/-- The instance range check: `BAD_INSTANCE` if `inst` is not below the unit's count (30_encoding R93). -/
def checkInst (count : Nat) (inst : Idx) (k : CmdOutcome) : CmdOutcome :=
  if inst.toNat < count then k else .faults .badInstance 0

/-- The `valid` check: `UNINIT` if the instance is not constructed (60_exceptions R251). -/
def checkValid {α : Type} (o : Option α) (k : α → CmdOutcome) : CmdOutcome :=
  match o with
  | some a => k a
  | none => .faults .uninit 0

/-- A command on a constructed biquad. -/
def withBq (s : State) (inst : Idx) (k : Biquad → CmdOutcome) : CmdOutcome :=
  checkInst s.cfg.nBq inst (checkValid (bankGet s.bq inst) k)

/-- A command on a constructed SVF. -/
def withSvf (s : State) (inst : Idx) (k : Svf → CmdOutcome) : CmdOutcome :=
  checkInst s.cfg.nSvf inst (checkValid (bankGet s.svf inst) k)

/-- A command on a constructed splitter. -/
def withSpl (s : State) (inst : Idx) (k : Splitter → CmdOutcome) : CmdOutcome :=
  checkInst s.cfg.nSpl inst (checkValid (bankGet s.spl inst) k)

/-- A command on a constructed envelope. -/
def withEnv (s : State) (inst : Idx) (k : Envelope → CmdOutcome) : CmdOutcome :=
  checkInst s.cfg.nEnv inst (checkValid (bankGet s.env inst) k)

/-- A command on a pattern; a pattern is always valid (10_state R51). -/
def withPat (s : State) (inst : Idx) (k : Pattern → CmdOutcome) : CmdOutcome :=
  checkInst s.cfg.nPat inst (k (s.getPat inst))

end Sys2Proof.Machine
end

