-- ==== Sys2Proof/Machine/Envelope.lean ====
section
/-! DEFINITION. Unit ENV, the envelope generator (44_envelope R181 to R192). -/

namespace Sys2Proof.Machine

/-- The phases of an envelope (10_state R50). -/
inductive Phase where
  | delay | attack | release | complete
  deriving DecidableEq, Repr

/-- The tag of a phase (10_state R50). -/
def Phase.tag : Phase → U64
  | .delay => 0 | .attack => 1 | .release => 2 | .complete => 3

/-- `Phase(e)` (10_state R50): the first counter that is greater than zero; a NaN counter is not. -/
def Envelope.phase (e : Envelope) : Phase :=
  if gt e.delayRem Const.zero then .delay
  else if gt e.attackRem Const.zero then .attack
  else if gt e.releaseRem Const.zero then .release
  else .complete

/-- The pattern instance of a selector `PATk`. -/
def patIndex (k : BitVec 3) : Idx := k.setWidth 4

/-- A selector names a curve this machine has: `8 + k` with `k >= N_PAT` does not (R181). -/
def curveExists (c : Cfg) : CurveSel → Bool
  | .sine | .ioSine => true
  | .pat k => k.toNat < c.nPat

/-- Ease-in-sine (R181). -/
def easeSine (A : Arith) (x : F64) : F64 := A.sub Const.one (cosF A (A.div (A.mul x Const.pi) Const.two))

/-- Ease-in-out-sine (R181). -/
def easeInOutSine (A : Arith) (x : F64) : F64 := A.div (neg (A.sub (cosF A (A.mul Const.pi x)) Const.one)) Const.two

/-- `ApplyCurve(sel, x)` (R181). A pattern selector evaluates the pattern as it is now. A selector of a pattern that does
not exist is never stored (R182); DESIGN CHOICE (log entry 9): here it answers `BAD_INSTANCE`. -/
def applyCurve (s : State) (sel : CurveSel) (x : F64) : CurveResult :=
  match sel with
  | .sine => .ok (easeSine s.fp x)
  | .ioSine => .ok (easeInOutSine s.fp x)
  | .pat k => if k.toNat < s.cfg.nPat then patEval s.cfg (patIndex k) (s.getPat (patIndex k)) x else .error (.badInstance, 0)

/-- `1.0 -. (rem /. total)`: the position in a phase (R184), and the progress (R190). -/
def fractionDone (A : Arith) (rem total : F64) : F64 := A.sub Const.one (A.div rem total)

/-- `(delay + attack) + release` (R190, R191). -/
def sum3 (A : Arith) (d a r : F64) : F64 := A.add (A.add d a) r

/-- A new envelope (R182): durations in samples, counters full. -/
def Envelope.fresh (A : Arith) (delay attack release sr : F64) (acurve rcurve : CurveSel) : Envelope :=
  let d := A.mul delay sr
  let a := A.mul attack sr
  let r := A.mul release sr
  ⟨d, a, r, d, a, r, acurve, rcurve⟩

/-- The end of a tick whose value comes from a curve (R184): the fault, before anything is written, or the value in
`rd` and the envelope with one counter decremented. -/
def tickWith (s : State) (inst : Idx) (rd : Reg) (r : CurveResult) (shape : F64 → F64) (e : Envelope) : CmdOutcome :=
  match r with
  | .ok v => .completes .ok ((s.setEnv inst e).setX rd (shape v))
  | .error (c, info) => .faults c info

/-- One tick of an envelope (R184): the value of the phase, then exactly one counter less 1.0; `NOVALUE` when Complete. -/
def tickEnv (s : State) (inst : Idx) (rd : Reg) (e : Envelope) : CmdOutcome :=
  let A := s.fp
  match e.phase with
  | .delay => .completes .ok ((s.setEnv inst { e with delayRem := A.sub e.delayRem Const.one }).setX rd Const.zero)
  | .attack =>
      tickWith s inst rd (applyCurve s e.acurve (fractionDone A e.attackRem e.attack)) id
        { e with attackRem := A.sub e.attackRem Const.one }
  | .release =>
      tickWith s inst rd (applyCurve s e.rcurve (fractionDone A e.releaseRem e.release)) (A.sub Const.one)
        { e with releaseRem := A.sub e.releaseRem Const.one }
  | .complete => .completes .noValue s

/-- `set_release` (R188): outright before Release and at its very start, rescaled by `new /. old` in mid-Release, nothing
when Complete. -/
def Envelope.setRelease (A : Arith) (e : Envelope) (new : F64) : Envelope :=
  match e.phase with
  | .complete => e
  | .delay | .attack => { e with release := new, releaseRem := new }
  | .release =>
      if feq e.releaseRem e.release then { e with release := new, releaseRem := new }
      else { e with release := new, releaseRem := A.mul e.releaseRem (A.div new e.release) }

/-- One element of an envelope's state (R192). -/
def Envelope.read (e : Envelope) : EnvField → U64
  | .delay => e.delay | .attack => e.attack | .release => e.release
  | .delayRem => e.delayRem | .attackRem => e.attackRem | .releaseRem => e.releaseRem
  | .phase => e.phase.tag
  | .curves => (curvesImm e.acurve e.rcurve).setWidth 64

/-- `ENV.INIT` (R182). -/
def execEnvInit (inst : Idx) (rs1 : Reg) (acurve rcurve : CurveSel) (s : State) : Host.Outcome State Fault Refusal :=
  command (.envInit inst rs1 acurve rcurve) s <|
    checkInst s.cfg.nEnv inst <|
      if curveExists s.cfg acurve && curveExists s.cfg rcurve then
        .completes .ok (s.setEnv inst
          (Envelope.fresh s.fp (s.xr rs1 0) (s.xr rs1 1) (s.xr rs1 2) (s.xr rs1 3) acurve rcurve))
      else .faults .badInstance 0

/-- `ENV.TICK` (R184). -/
def execEnvTick (inst : Idx) (rd : Reg) (s : State) : Host.Outcome State Fault Refusal :=
  command (.envTick inst rd) s (withEnv s inst fun e => tickEnv s inst rd e)

/-- `ENV.SETREL` (R188). -/
def execEnvSetrel (inst : Idx) (rs1 : Reg) (s : State) : Host.Outcome State Fault Refusal :=
  command (.envSetrel inst rs1) s <|
    withEnv s inst fun e => .completes .ok (s.setEnv inst (e.setRelease s.fp (s.getX rs1)))

/-- `ENV.PROG` (R190). -/
def execEnvProg (inst : Idx) (rd : Reg) (s : State) : Host.Outcome State Fault Refusal :=
  command (.envProg inst rd) s <|
    withEnv s inst fun e =>
      .completes .ok (s.setX rd (fractionDone s.fp (sum3 s.fp e.delayRem e.attackRem e.releaseRem)
        (sum3 s.fp e.delay e.attack e.release)))

/-- `ENV.DUR` (R191). -/
def execEnvDur (inst : Idx) (rd : Reg) (s : State) : Host.Outcome State Fault Refusal :=
  command (.envDur inst rd) s <|
    withEnv s inst fun e => .completes .ok (s.setX rd (sum3 s.fp e.delay e.attack e.release))

/-- `ENV.RD` (R192). -/
def execEnvRd (inst : Idx) (rd : Reg) (field : EnvField) (s : State) : Host.Outcome State Fault Refusal :=
  command (.envRd inst rd field) s <|
    withEnv s inst fun e => .completes .ok (s.setX rd (e.read field))

end Sys2Proof.Machine
end

