-- ==== Sys2Proof/Machine/Pattern.lean ====
section
/-! DEFINITION. Unit PAT, the pattern curve evaluator (45_pattern R200 to R229). -/

namespace Sys2Proof.Machine

/-! ## Points -/

/-- `lo <= v <= hi` with the comparisons of 00_scope R15: false for a NaN. -/
def inClosed (lo v hi : F64) : Bool := le lo v && le v hi

/-- `ValidPoint(x, y, t)` (R203). -/
def validPoint (x y t : F64) : Bool :=
  inClosed Const.zero x Const.one && inClosed Const.zero y Const.one && inClosed Const.negOne t Const.one

/-- The point of a register block x, y, tension with a kind (R204, R226). -/
def State.pointBlock (s : State) (rs1 : Reg) (kind : CurveKind) : Point := ⟨s.xr rs1 0, s.xr rs1 1, s.xr rs1 2, kind⟩

/-- `ValidPoint` of a point record. -/
def Point.valid (p : Point) : Bool := validPoint p.x p.y p.tension

/-- The pattern `clear` leaves (R201). -/
def Pattern.cleared : Pattern where
  first := ⟨Const.zero, Const.half, Const.zero, .curve⟩
  mid := []
  last := ⟨Const.one, Const.half, Const.zero, .curve⟩

/-- The number of interior points with x ≤ the new x (R204). -/
def insertionPlace (mid : List Point) (x : F64) : Nat := mid.countP fun q => le q.x x

/-- The pattern with a point inserted after that many interior points (R204: index `k = 1 +` that number). -/
def Pattern.insert (p : Pattern) (q : Point) : Pattern :=
  let k := insertionPlace p.mid q.x
  { p with mid := p.mid.take k ++ q :: p.mid.drop k }

/-- The pattern without the interior point `pt[i]` (R205); `1 <= i <= n-2`. -/
def Pattern.removeAt (p : Pattern) (i : Nat) : Pattern := { p with mid := p.mid.eraseIdx (i - 1) }

/-- The interior point at this position, IEEE `==` on both coordinates (R206). -/
def Point.at (x y : F64) (q : Point) : Bool := feq q.x x && feq q.y y

/-- The interior point lies in the range, both ends inclusive (R207). -/
def Point.inRange (lo hi : F64) (q : Point) : Bool := le lo q.x && le q.x hi

/-- `y <- 1.0 -. y` (R208). -/
def Point.inverted (A : Arith) (q : Point) : Point := { q with y := A.sub Const.one q.y }

/-- `invert` (R208): every point, boundary points included. -/
def Pattern.inverted (A : Arith) (p : Pattern) : Pattern where
  first := p.first.inverted A
  mid := p.mid.map (·.inverted A)
  last := p.last.inverted A

/-- A point of a reversed pattern (R209): the position mirrored from `src`, tension (negated) and kind from `shape`. -/
def mirrored (A : Arith) (src shape : Point) : Point := ⟨A.sub Const.one src.x, src.y, neg shape.tension, shape.kind⟩

/-- `reverse` (R209): `q[j]` takes its position from `p[n-1-j]` and its tension and kind from `p[n-2-j]`, but for the last
point, which keeps its place `p[n-1]` as the source of tension and kind. With `shapes = p[n-2], …, p[1], p[0]`, the
interior points pair `p[n-2], …, p[1]` with `shapes` from its second entry on. -/
def Pattern.reversed (A : Arith) (p : Pattern) : Pattern where
  first := mirrored A p.last (p.mid.getLastD p.first)
  mid := List.zipWith (mirrored A) p.mid.reverse ((p.mid.reverse ++ [p.first]).drop 1)
  last := mirrored A p.first p.last

/-! ## Whole-pattern commands -/

/-- `PAT.DFLT` (R200). -/
def execPatDflt (inst : Idx) (s : State) : Host.Outcome State Fault Refusal :=
  command (.patDflt inst) s (withPat s inst fun _ => .completes .ok (s.setPat inst Pattern.default))

/-- `PAT.CLR` (R201). -/
def execPatClr (inst : Idx) (s : State) : Host.Outcome State Fault Refusal :=
  command (.patClr inst) s (withPat s inst fun _ => .completes .ok (s.setPat inst Pattern.cleared))

/-- `PAT.INV` (R208). -/
def execPatInv (inst : Idx) (s : State) : Host.Outcome State Fault Refusal :=
  command (.patInv inst) s (withPat s inst fun p => .completes .ok (s.setPat inst (p.inverted s.fp)))

/-- `PAT.REV` (R209). -/
def execPatRev (inst : Idx) (s : State) : Host.Outcome State Fault Refusal :=
  command (.patRev inst) s (withPat s inst fun p => .completes .ok (s.setPat inst (p.reversed s.fp)))

/-! ## Points of a pattern -/

/-- `PAT.INS` (R204): `BAD_POINT` before `FULL`. -/
def execPatIns (inst : Idx) (rs1 : Reg) (kind : CurveKind) (s : State) : Host.Outcome State Fault Refusal :=
  command (.patIns inst rs1 kind) s <|
    withPat s inst fun p =>
      let q := s.pointBlock rs1 kind
      if !q.valid then .completes .badPoint s
      else if p.count = s.cfg.patMaxPts then .completes .full s
      else .completes .ok (s.setPat inst (p.insert q))

/-- `PAT.RM` (R205): the index is the whole register as an unsigned integer; `BOUNDARY` before `INDEX`. -/
def execPatRm (inst : Idx) (rs1 : Reg) (s : State) : Host.Outcome State Fault Refusal :=
  command (.patRm inst rs1) s <|
    withPat s inst fun p =>
      let i := (s.getX rs1).toNat
      if i = 0 ∨ i = p.count - 1 then .completes .boundary s
      else if p.count ≤ i then .completes .index s
      else .completes .ok (s.setPat inst (p.removeAt i))

/-- `PAT.RMPOS` (R206): the first interior point that matches; the number removed, 0 or 1, in `rd`. -/
def execPatRmpos (inst : Idx) (rd rs1 : Reg) (s : State) : Host.Outcome State Fault Refusal :=
  command (.patRmpos inst rd rs1) s <|
    withPat s inst fun p =>
      match p.mid.findIdx? (Point.at (s.xr rs1 0) (s.xr rs1 1)) with
      | none => .completes .ok (s.setX rd 0)
      | some j => .completes .ok ((s.setPat inst (p.removeAt (j + 1))).setX rd 1)

/-- `PAT.RMRNG` (R207): every interior point in the range; the number removed in `rd`. -/
def execPatRmrng (inst : Idx) (rd rs1 : Reg) (s : State) : Host.Outcome State Fault Refusal :=
  command (.patRmrng inst rd rs1) s <|
    withPat s inst fun p =>
      let inside := Point.inRange (s.xr rs1 0) (s.xr rs1 1)
      .completes .ok ((s.setPat inst { p with mid := p.mid.filter fun q => !inside q }).setX rd
        (BitVec.ofNat 64 (p.mid.countP inside)))

/-! ## Evaluation -/

/-- `PAT.EVAL` (R210). -/
def execPatEval (inst : Idx) (rd rs1 : Reg) (s : State) : Host.Outcome State Fault Refusal :=
  command (.patEval inst rd rs1) s <|
    withPat s inst fun p =>
      match patEval s.cfg inst p (s.getX rs1) with
      | .ok y => .completes .ok (s.setX rd y)
      | .error (c, info) => .faults c info

/-! ## Construction from a point list -/

/-- Neighbouring points of a list have non-decreasing x (R227). -/
def xSorted : List Point → Bool
  | [] => true
  | p :: rest =>
    match rest with
    | [] => true
    | q :: _ => le p.x q.x && xSorted rest

/-- The pattern a point list builds (R227); none for fewer than two points, a first x that is not 0 or a last that is
not 1, or points that are not x-sorted. -/
def Pattern.ofList : List Point → Option Pattern
  | p :: q :: rest =>
    let last := rest.getLastD q
    if feq p.x Const.zero && feq last.x Const.one && xSorted (p :: q :: rest) then
      some ⟨p, (q :: rest).dropLast, last⟩
    else none
  | _ => none

/-- `PAT.SCLR` (R225). -/
def execPatSclr (s : State) : Host.Outcome State Fault Refusal :=
  command .patSclr s (.completes .ok { s with stg := [] })

/-- `PAT.SPUSH` (R226): `BAD_POINT` before `FULL`. -/
def execPatSpush (rs1 : Reg) (kind : CurveKind) (s : State) : Host.Outcome State Fault Refusal :=
  command (.patSpush rs1 kind) s <|
    let q := s.pointBlock rs1 kind
    if !q.valid then .completes .badPoint s
    else if s.stg.length = s.cfg.patMaxPts then .completes .full s
    else .completes .ok { s with stg := s.stg ++ [q] }

/-- `PAT.SCOMMIT` (R227): the staging buffer is left as it is. -/
def execPatScommit (inst : Idx) (s : State) : Host.Outcome State Fault Refusal :=
  command (.patScommit inst) s <|
    withPat s inst fun _ =>
      match Pattern.ofList s.stg with
      | some p => .completes .ok (s.setPat inst p)
      | none => .completes .badPattern s

/-! ## State read -/

/-- The four registers of a point (R228). -/
def Point.block (q : Point) : List U64 := [q.x, q.y, q.tension, q.kind.imm.setWidth 64]

/-- `PAT.RDPT` (R228): `INDEX` and no register written at or above `n`. -/
def execPatRdpt (inst : Idx) (rd rs1 : Reg) (s : State) : Host.Outcome State Fault Refusal :=
  command (.patRdpt inst rd rs1) s <|
    withPat s inst fun p =>
      match p.pts[(s.getX rs1).toNat]? with
      | some q => .completes .ok (s.setBlock rd q.block)
      | none => .completes .index s

/-- `PAT.LEN` (R229). -/
def execPatLen (inst : Idx) (rd : Reg) (s : State) : Host.Outcome State Fault Refusal :=
  command (.patLen inst rd) s <|
    withPat s inst fun p => .completes .ok (s.setX rd (BitVec.ofNat 64 p.count))

end Sys2Proof.Machine
end

