-- ==== Sys2Proof/Machine/Biquad.lean ====
section
/-! DEFINITION. Unit BQ, the biquad IIR engine (40_biquad R110 to R115). -/

namespace Sys2Proof.Machine

/-- The biquad with these coefficients and its history untouched (R111). -/
def Biquad.withCoefs (b : Biquad) (c : BqCoefs) : Biquad :=
  { b with b0 := c.b0, b1 := c.b1, b2 := c.b2, a1 := c.a1, a2 := c.a2 }

/-- A new biquad: history +0.0 (R110, 43_splitter R155). -/
def Biquad.fresh (c : BqCoefs) : Biquad :=
  ⟨c.b0, c.b1, c.b2, c.a1, c.a2, Const.zero, Const.zero, Const.zero, Const.zero⟩

/-- The output of the difference equation (R112), left to right, one rounding per operator. -/
def bqOutput (A : Arith) (b : Biquad) (x : F64) : F64 :=
  A.sub (A.sub (A.add (A.add (A.mul b.b0 x) (A.mul b.b1 b.x1)) (A.mul b.b2 b.x2)) (A.mul b.a1 b.y1)) (A.mul b.a2 b.y2)

/-- The history shift (R112): x₂←x₁, x₁←x, y₂←y₁, y₁←y. -/
def Biquad.shift (b : Biquad) (x y : F64) : Biquad := { b with x2 := b.x1, x1 := x, y2 := b.y1, y1 := y }

/-- `BqStep` (R112, 43_splitter R158): the output and the biquad after it. -/
def bqStep (A : Arith) (b : Biquad) (x : F64) : F64 × Biquad :=
  let y := bqOutput A b x
  (y, b.shift x y)

/-- The stability predicate (R113): `|a1| < 2` and `|a1| - 1 < a2 < 1`, strict IEEE comparisons. -/
def bqStable (A : Arith) (a1 a2 : F64) : Bool :=
  lt (abs a1) Const.two && lt (A.sub (abs a1) Const.one) a2 && lt a2 Const.one

/-- One element of a biquad's state (R115). -/
def Biquad.read (b : Biquad) : BqField → F64
  | .b0 => b.b0 | .b1 => b.b1 | .b2 => b.b2 | .a1 => b.a1 | .a2 => b.a2
  | .x1 => b.x1 | .x2 => b.x2 | .y1 => b.y1 | .y2 => b.y2

/-- A register block of five coefficients: b0, b1, b2, a1, a2 (R110, R111). -/
def State.bqBlock (s : State) (rs1 : Reg) : BqCoefs := ⟨s.xr rs1 0, s.xr rs1 1, s.xr rs1 2, s.xr rs1 3, s.xr rs1 4⟩

/-- `BQ.INIT` (R110). -/
def execBqInit (inst : Idx) (rs1 : Reg) (s : State) : Host.Outcome State Fault Refusal :=
  command (.bqInit inst rs1) s <|
    checkInst s.cfg.nBq inst (.completes .ok (s.setBq inst (Biquad.fresh (s.bqBlock rs1))))

/-- `BQ.SETC` (R111). -/
def execBqSetc (inst : Idx) (rs1 : Reg) (s : State) : Host.Outcome State Fault Refusal :=
  command (.bqSetc inst rs1) s <|
    withBq s inst fun b => .completes .ok (s.setBq inst (b.withCoefs (s.bqBlock rs1)))

/-- `BQ.PROC` (R112). -/
def execBqProc (inst : Idx) (rd rs1 : Reg) (s : State) : Host.Outcome State Fault Refusal :=
  command (.bqProc inst rd rs1) s <|
    withBq s inst fun b =>
      let r := bqStep s.fp b (s.getX rs1)
      .completes .ok ((s.setBq inst r.2).setX rd r.1)

/-- `BQ.STAB` (R113): the integer 1 or 0. -/
def execBqStab (inst : Idx) (rd : Reg) (s : State) : Host.Outcome State Fault Refusal :=
  command (.bqStab inst rd) s <|
    withBq s inst fun b => .completes .ok (s.setX rd (if bqStable s.fp b.a1 b.a2 then 1 else 0))

/-- `BQ.DSGN` (R114): `ILLEGAL_CMD` for a kind that has no biquad strategy. -/
def execBqDsgn (inst : Idx) (rs1 : Reg) (kind : FilterKind) (s : State) : Host.Outcome State Fault Refusal :=
  command (.bqDsgn inst rs1 kind) s <|
    if kind.forBiquad then
      withBq s inst fun b =>
        .completes .ok (s.setBq inst (b.withCoefs (bqStrategy s.cfg kind (s.xr rs1 0) (s.xr rs1 1) (s.xr rs1 2))))
    else .faults .illegalCmd 0

/-- `BQ.RD` (R115). -/
def execBqRd (inst : Idx) (rd : Reg) (field : BqField) (s : State) : Host.Outcome State Fault Refusal :=
  command (.bqRd inst rd field) s <|
    withBq s inst fun b => .completes .ok (s.setX rd (b.read field))

end Sys2Proof.Machine
end

