-- ==== Sys2Proof/Machine/Svf.lean ====
section
/-! DEFINITION. Unit SVF, the trapezoidal state-variable filter core (41_svf R120 to R127). -/

namespace Sys2Proof.Machine

/-- The SVF with these coefficients; parameters and integrators untouched (R121). -/
def Svf.withCoefs (v : Svf) (c : SvfCoefs) : Svf :=
  { v with a1 := c.a1, a2 := c.a2, a3 := c.a3, m0 := c.m0, m1 := c.m1, m2 := c.m2 }

/-- `Recompute` (R121): the six coefficients from the stored parameters. -/
def Svf.recompute (c : Cfg) (v : Svf) : Svf := v.withCoefs (svfStrategy c v.kind v.f v.q v.sr v.gain)

/-- A new SVF with these parameters: integrators +0.0, coefficients computed (R120). -/
def Svf.fresh (c : Cfg) (kind : FilterKind) (f q sr gain : F64) : Svf :=
  let k := svfStrategy c kind f q sr gain
  ⟨k.a1, k.a2, k.a3, k.m0, k.m1, k.m2, Const.zero, Const.zero, f, q, sr, gain, kind⟩

/-- The three internal values of a step (R126): `v3`, `v1`, `v2`, all from the old integrators. -/
structure SvfTaps where
  v3 : F64
  v1 : F64
  v2 : F64
  deriving DecidableEq, Repr

/-- `v3 = v0 - ic2eq`, `v1 = a1·ic1eq + a2·v3`, `v2 = ic2eq + a2·ic1eq + a3·v3` (R126). -/
def svfTaps (A : Arith) (v : Svf) (v0 : F64) : SvfTaps :=
  let v3 := A.sub v0 v.ic2eq
  let v1 := A.add (A.mul v.a1 v.ic1eq) (A.mul v.a2 v3)
  let v2 := A.add (A.add v.ic2eq (A.mul v.a2 v.ic1eq)) (A.mul v.a3 v3)
  ⟨v3, v1, v2⟩

/-- `m0·v0 + m1·v1 + m2·v2` (R126). -/
def svfOutput (A : Arith) (v : Svf) (v0 : F64) (t : SvfTaps) : F64 :=
  A.add (A.add (A.mul v.m0 v0) (A.mul v.m1 t.v1)) (A.mul v.m2 t.v2)

/-- The integrator updates (R126): `ic1eq = 2·v1 - ic1eq`, `ic2eq = 2·v2 - ic2eq`. -/
def Svf.integrate (A : Arith) (v : Svf) (t : SvfTaps) : Svf :=
  { v with ic1eq := A.sub (A.mul Const.two t.v1) v.ic1eq, ic2eq := A.sub (A.mul Const.two t.v2) v.ic2eq }

/-- `SvfStep` (R126, 43_splitter R158): the output and the SVF after it. -/
def svfStep (A : Arith) (v : Svf) (v0 : F64) : F64 × Svf :=
  let t := svfTaps A v v0
  (svfOutput A v v0 t, v.integrate A t)

/-- One element of an SVF's state (R127); the kind as a tag zero-extended to 64 bits. -/
def Svf.read (v : Svf) : SvfField → U64
  | .a1 => v.a1 | .a2 => v.a2 | .a3 => v.a3 | .m0 => v.m0 | .m1 => v.m1 | .m2 => v.m2
  | .ic1eq => v.ic1eq | .ic2eq => v.ic2eq
  | .f => v.f | .q => v.q | .sr => v.sr | .gain => v.gain
  | .kind => v.kind.imm.setWidth 64

/-- The shape of the four setters (R122 to R125): equal to the stored parameter, nothing is written; else the parameter
is stored and all six coefficients are recomputed. -/
def svfSetter (s : State) (inst : Idx) (v : F64) (stored : Svf → F64) (store : Svf → F64 → Svf) : CmdOutcome :=
  withSvf s inst fun u =>
    if feq v (stored u) then .completes .ok s
    else .completes .ok (s.setSvf inst ((store u v).recompute s.cfg))

/-- `SVF.INIT` (R120). -/
def execSvfInit (inst : Idx) (rs1 : Reg) (kind : FilterKind) (s : State) : Host.Outcome State Fault Refusal :=
  command (.svfInit inst rs1 kind) s <|
    checkInst s.cfg.nSvf inst
      (.completes .ok (s.setSvf inst (Svf.fresh s.cfg kind (s.xr rs1 0) (s.xr rs1 1) (s.xr rs1 2) (s.xr rs1 3))))

/-- `SVF.SETF` (R122). -/
def execSvfSetf (inst : Idx) (rs1 : Reg) (s : State) : Host.Outcome State Fault Refusal :=
  command (.svfSetf inst rs1) s (svfSetter s inst (s.getX rs1) (·.f) fun f v => { f with f := v })

/-- `SVF.SETQ` (R123). -/
def execSvfSetq (inst : Idx) (rs1 : Reg) (s : State) : Host.Outcome State Fault Refusal :=
  command (.svfSetq inst rs1) s (svfSetter s inst (s.getX rs1) (·.q) fun f v => { f with q := v })

/-- `SVF.SETSR` (R124). -/
def execSvfSetsr (inst : Idx) (rs1 : Reg) (s : State) : Host.Outcome State Fault Refusal :=
  command (.svfSetsr inst rs1) s (svfSetter s inst (s.getX rs1) (·.sr) fun f v => { f with sr := v })

/-- `SVF.SETG` (R125). -/
def execSvfSetg (inst : Idx) (rs1 : Reg) (s : State) : Host.Outcome State Fault Refusal :=
  command (.svfSetg inst rs1) s (svfSetter s inst (s.getX rs1) (·.gain) fun f v => { f with gain := v })

/-- `SVF.PROC` (R126). -/
def execSvfProc (inst : Idx) (rd rs1 : Reg) (s : State) : Host.Outcome State Fault Refusal :=
  command (.svfProc inst rd rs1) s <|
    withSvf s inst fun v =>
      let r := svfStep s.fp v (s.getX rs1)
      .completes .ok ((s.setSvf inst r.2).setX rd r.1)

/-- `SVF.RD` (R127). -/
def execSvfRd (inst : Idx) (rd : Reg) (field : SvfField) (s : State) : Host.Outcome State Fault Refusal :=
  command (.svfRd inst rd field) s <|
    withSvf s inst fun v => .completes .ok (s.setX rd (v.read field))

end Sys2Proof.Machine
end

