-- ==== Sys2Proof/Machine/Splitter.lean ====
section
/-! DEFINITION. Unit SPL, the crossover band splitter (43_splitter R155 to R175). -/

namespace Sys2Proof.Machine

/-! ## Configuration -/

/-- The topology of a splitter's body. -/
def SplBody.topo : SplBody → Topo
  | .b2x24 .. => .b2x24
  | .b2x12 .. => .b2x12
  | .b3x12 .. => .b3x12
  | .b3x24 .. => .b3x24
  | .dyn3 .. => .dyn3

/-- `f2`, where the topology has one (10_state R46). -/
def SplBody.f2 : SplBody → Option F64
  | .b2x24 .. | .b2x12 .. => none
  | .b3x12 f2 .. | .b3x24 f2 .. | .dyn3 f2 .. => some f2

/-- An SVF slot under its strategy (R156): the stored `f`, `q`, `sr`, `kind` are set to the strategy's arguments and the
coefficients to its values; `gain` and the integrators are untouched. -/
def Svf.configured (c : Cfg) (kind : FilterKind) (f q sr gain : F64) (v : Svf) : Svf :=
  { v with f := f, q := q, sr := sr, kind := kind }.withCoefs (svfStrategy c kind f q sr gain)

/-- `ButterLP(f, sr)` on a slot (42_coefficients R150). -/
def butterLp (c : Cfg) (f sr : F64) (b : Biquad) : Biquad := b.withCoefs (bqStrategy c .lp f Const.qButter sr)

/-- `ButterHP(f, sr)` on a slot (42_coefficients R150). -/
def butterHp (c : Cfg) (f sr : F64) (b : Biquad) : Biquad := b.withCoefs (bqStrategy c .hp f Const.qButter sr)

/-- `ApBq(f, sr)` on a slot (42_coefficients R150). -/
def apBq (c : Cfg) (f sr : F64) (b : Biquad) : Biquad := b.withCoefs (bqStrategy c .ap f c.qAp24 sr)

/-- `LrLP(f, sr)` on a slot (42_coefficients R150). -/
def lrLp (c : Cfg) (f sr : F64) : Svf → Svf := Svf.configured c .lp f c.qLr2 sr Const.one

/-- `LrHP(f, sr)` on a slot (42_coefficients R150). -/
def lrHp (c : Cfg) (f sr : F64) : Svf → Svf := Svf.configured c .hp f c.qLr2 sr Const.one

/-- `ApSvf(f, sr)` on a slot (42_coefficients R150). -/
def apSvf (c : Cfg) (f sr : F64) : Svf → Svf := Svf.configured c .ap f c.qAp12 sr Const.one

/-- `ShelfLo(f, sr, G)` on a slot, `G` the slot's stored gain (42_coefficients R150, R156). -/
def shelfLo (c : Cfg) (f sr : F64) (v : Svf) : Svf := v.configured c .ls f c.qShelf sr v.gain

/-- `ShelfHi(f, sr, G)` on a slot, `G` the slot's stored gain (42_coefficients R150, R156). -/
def shelfHi (c : Cfg) (f sr : F64) (v : Svf) : Svf := v.configured c .hs f c.qShelf sr v.gain

/-- `Configure` (R156): the coefficients of every used slot from `f1`, `f2`, `sr`; never the filter history. -/
def configure (c : Cfg) (p : Splitter) : Splitter :=
  let f1 := p.f1
  let sr := p.sr
  { p with
    body := match p.body with
      | .b2x24 s0 s1 s2 s3 =>
          .b2x24 (butterLp c f1 sr s0) (butterLp c f1 sr s1) (butterHp c f1 sr s2) (butterHp c f1 sr s3)
      | .b2x12 s0 s1 => .b2x12 (lrLp c f1 sr s0) (lrHp c f1 sr s1)
      | .b3x12 f2 s0 s1 s2 s3 s4 =>
          .b3x12 f2 (lrLp c f1 sr s0) (lrHp c f1 sr s1) (apSvf c f2 sr s2) (lrLp c f2 sr s3) (lrHp c f2 sr s4)
      | .b3x24 f2 s0 s1 s2 s3 s4 s5 s6 s7 s8 =>
          .b3x24 f2 (butterLp c f1 sr s0) (butterLp c f1 sr s1) (butterHp c f1 sr s2) (butterHp c f1 sr s3)
            (apBq c f2 sr s4) (butterLp c f2 sr s5) (butterLp c f2 sr s6) (butterHp c f2 sr s7) (butterHp c f2 sr s8)
      | .dyn3 f2 s0 s1 => .dyn3 f2 (shelfLo c f1 sr s0) (shelfHi c f2 sr s1) }

/-- A biquad slot before `Configure`: history +0.0 (R155). -/
def blankBiquad : Biquad := Biquad.fresh ⟨Const.zero, Const.zero, Const.zero, Const.zero, Const.zero⟩

/-- An SVF slot before `Configure`: integrators +0.0, gain 1.0 (R155); `Configure` writes the rest. -/
def blankSvf : Svf :=
  ⟨Const.zero, Const.zero, Const.zero, Const.zero, Const.zero, Const.zero, Const.zero, Const.zero,
    Const.zero, Const.zero, Const.zero, Const.one, .lp⟩

/-- The body of a topology with fresh slots (R155). -/
def SplBody.blank (f2 : F64) : Topo → SplBody
  | .b2x24 => .b2x24 blankBiquad blankBiquad blankBiquad blankBiquad
  | .b2x12 => .b2x12 blankSvf blankSvf
  | .b3x12 => .b3x12 f2 blankSvf blankSvf blankSvf blankSvf blankSvf
  | .b3x24 => .b3x24 f2 blankBiquad blankBiquad blankBiquad blankBiquad blankBiquad blankBiquad blankBiquad blankBiquad
      blankBiquad
  | .dyn3 => .dyn3 f2 blankSvf blankSvf

/-- The topologies whose operand block is `f, sr` (R155). -/
def isTwoBand : Topo → Bool
  | .b2x24 | .b2x12 => true
  | .b3x12 | .b3x24 | .dyn3 => false

/-- The body with another `f2`, where the topology has one (R157). -/
def SplBody.withF2 (f2 : F64) : SplBody → SplBody
  | .b2x24 s0 s1 s2 s3 => .b2x24 s0 s1 s2 s3
  | .b2x12 s0 s1 => .b2x12 s0 s1
  | .b3x12 _ s0 s1 s2 s3 s4 => .b3x12 f2 s0 s1 s2 s3 s4
  | .b3x24 _ s0 s1 s2 s3 s4 s5 s6 s7 s8 => .b3x24 f2 s0 s1 s2 s3 s4 s5 s6 s7 s8
  | .dyn3 _ s0 s1 => .dyn3 f2 s0 s1

/-! ## The pipelines (R161 to R164) -/

/-- A cascade of two biquads: `BqStep(slot b, BqStep(slot a, x))` (R161, R164). -/
def bqCascade (A : Arith) (a b : Biquad) (x : F64) : F64 × Biquad × Biquad :=
  let r := bqStep A a x
  let t := bqStep A b r.1
  (t.1, r.2, t.2)

/-- The sign inversion of the three-band 24 dB topology, where `SPL3_24_INVERT` asks for it (R164). -/
def invertIf (flag : Bool) (v : F64) : F64 := if flag then neg v else v

/-- The bands of one sample, low first, and the body after it (R161 to R164); none on the dynamic topology, which does
not split (R160). -/
def splitBands (c : Cfg) (body : SplBody) (x : F64) : Option (List F64 × SplBody) :=
  let A := fpOf c
  match body with
  | .b2x24 s0 s1 s2 s3 =>
      let low := bqCascade A s0 s1 x
      let high := bqCascade A s2 s3 x
      some ([low.1, high.1], .b2x24 low.2.1 low.2.2 high.2.1 high.2.2)
  | .b2x12 s0 s1 =>
      let low := svfStep A s0 x
      let high := svfStep A s1 x
      some ([low.1, neg high.1], .b2x12 low.2 high.2)
  | .b3x12 f2 s0 s1 s2 s3 s4 =>
      let l1 := svfStep A s0 x
      let p1 := svfStep A s1 x
      let h1 := neg p1.1
      let low := svfStep A s2 l1.1
      let mid := svfStep A s3 h1
      let high := svfStep A s4 h1
      some ([low.1, mid.1, neg high.1], .b3x12 f2 l1.2 p1.2 low.2 mid.2 high.2)
  | .b3x24 f2 s0 s1 s2 s3 s4 s5 s6 s7 s8 =>
      let l1 := bqCascade A s0 s1 x
      let p1 := bqCascade A s2 s3 x
      let h1 := invertIf c.spl324Invert p1.1
      let low := bqStep A s4 l1.1
      let mid := bqCascade A s5 s6 h1
      let high := bqCascade A s7 s8 h1
      some ([low.1, mid.1, invertIf c.spl324Invert high.1],
        .b3x24 f2 l1.2.1 l1.2.2 p1.2.1 p1.2.2 low.2 mid.2.1 mid.2.2 high.2.1 high.2.2)
  | .dyn3 .. => none

/-! ## The dynamic topology (R170 to R172) -/

/-- `ToDb(r) = 20.0 *. log10(r)` (R170). -/
def toDb (A : Arith) (r : F64) : F64 := A.mul Const.twenty (log10F A r)

/-- `FromDb(d) = pow(10.0, d /. 20.0)` (R170). -/
def fromDb (A : Arith) (d : F64) : F64 := powF A Const.ten (A.div d Const.twenty)

/-- `ShelfGain(gb, gm)` (R171). -/
def shelfGain (A : Arith) (gb gm : F64) : F64 :=
  fromDb A (clamp (A.sub (toDb A gb) (toDb A gm)) Const.negShelfDbClamp Const.shelfDbClamp)

/-- The output for one sample under the three band gains, and the splitter after it (R172); none on an isolating
topology. -/
def applyGain (c : Cfg) (p : Splitter) (x gl gm gh : F64) : Option (F64 × Splitter) :=
  let A := fpOf c
  match p.body with
  | .dyn3 f2 s0 s1 =>
      let t := svfStep A (shelfLo c p.f1 p.sr { s0 with gain := shelfGain A gl gm }) x
      let u := svfStep A (shelfHi c f2 p.sr { s1 with gain := shelfGain A gh gm }) t.1
      some (A.mul gm u.1, { p with body := .dyn3 f2 t.2 u.2 })
  | .b2x24 .. | .b2x12 .. | .b3x12 .. | .b3x24 .. => none

/-! ## State read (R175) -/

/-- A filter slot: a biquad or an SVF (10_state R46). -/
inductive Slot where
  | bq (b : Biquad)
  | svf (v : Svf)
  deriving DecidableEq, Repr

/-- The slots a body uses, in order (10_state R47). -/
def SplBody.slots : SplBody → List Slot
  | .b2x24 s0 s1 s2 s3 => [.bq s0, .bq s1, .bq s2, .bq s3]
  | .b2x12 s0 s1 => [.svf s0, .svf s1]
  | .b3x12 _ s0 s1 s2 s3 s4 => [.svf s0, .svf s1, .svf s2, .svf s3, .svf s4]
  | .b3x24 _ s0 s1 s2 s3 s4 s5 s6 s7 s8 =>
      [.bq s0, .bq s1, .bq s2, .bq s3, .bq s4, .bq s5, .bq s6, .bq s7, .bq s8]
  | .dyn3 _ s0 s1 => [.svf s0, .svf s1]

/-- One element of a slot, its field read by the slot's type; none for a field a biquad slot does not have. -/
def Slot.read (field : BitVec 4) : Slot → Option U64
  | .bq b => (BqField.ofImm (field.setWidth 8)).map b.read
  | .svf v => (SvfField.ofImm (field.setWidth 8)).map v.read

/-- One element of the splitter's own configuration, slot 15 (R175); none for `f2` of a two-band topology. -/
def Splitter.readConfig (p : Splitter) (field : BitVec 4) : Option U64 :=
  if field = 0 then some (p.body.topo.imm.setWidth 64)
  else if field = 1 then some p.f1
  else if field = 2 then p.body.f2
  else some p.sr

/-- One element of a splitter's state (R175); none where the topology does not have it. -/
def Splitter.read (p : Splitter) (slot field : BitVec 4) : Option U64 :=
  if slot = 15 then p.readConfig field
  else (p.body.slots[slot.toNat]?).bind (Slot.read field)

/-! ## The commands -/

/-- A new splitter (R155): fresh slots, then `Configure`. -/
def Splitter.fresh (c : Cfg) (topo : Topo) (f1 f2 sr : F64) : Splitter := configure c ⟨f1, sr, SplBody.blank f2 topo⟩

/-- `SPL.INIT` (R155): a two-band topology takes `f, sr`, a three-band one `f1, f2, sr`. -/
def execSplInit (inst : Idx) (rs1 : Reg) (topo : Topo) (s : State) : Host.Outcome State Fault Refusal :=
  command (.splInit inst rs1 topo) s <|
    checkInst s.cfg.nSpl inst <|
      .completes .ok (s.setSpl inst
        (if isTwoBand topo then Splitter.fresh s.cfg topo (s.xr rs1 0) Const.zero (s.xr rs1 1)
         else Splitter.fresh s.cfg topo (s.xr rs1 0) (s.xr rs1 1) (s.xr rs1 2)))

/-- `SPL.SETF` (R157). -/
def execSplSetf (inst : Idx) (rs1 : Reg) (s : State) : Host.Outcome State Fault Refusal :=
  command (.splSetf inst rs1) s <|
    withSpl s inst fun p =>
      .completes .ok (s.setSpl inst
        (configure s.cfg { p with f1 := s.xr rs1 0, body := p.body.withF2 (s.xr rs1 1) }))

/-- `SPL.SPLIT` (R160). -/
def execSplSplit (inst : Idx) (rd rs1 : Reg) (s : State) : Host.Outcome State Fault Refusal :=
  command (.splSplit inst rd rs1) s <|
    withSpl s inst fun p =>
      match splitBands s.cfg p.body (s.getX rs1) with
      | some r => .completes .ok ((s.setSpl inst { p with body := r.2 }).setBlock rd r.1)
      | none => .faults .topology 0

/-- `SPL.GAIN` (R172). -/
def execSplGain (inst : Idx) (rd rs1 rs2 : Reg) (s : State) : Host.Outcome State Fault Refusal :=
  command (.splGain inst rd rs1 rs2) s <|
    withSpl s inst fun p =>
      match applyGain s.cfg p (s.getX rs1) (s.xr rs2 0) (s.xr rs2 1) (s.xr rs2 2) with
      | some r => .completes .ok ((s.setSpl inst r.2).setX rd r.1)
      | none => .faults .topology 0

/-- `SPL.RD` (R175): `RC <- INDEX` and no register written where the topology does not have the element. -/
def execSplRd (inst : Idx) (rd : Reg) (slot field : BitVec 4) (s : State) : Host.Outcome State Fault Refusal :=
  command (.splRd inst rd slot field) s <|
    if splSelector slot field then
      withSpl s inst fun p =>
        match p.read slot field with
        | some v => .completes .ok (s.setX rd v)
        | none => .completes .index s
    else .faults .illegalCmd 0

end Sys2Proof.Machine
end

