-- ==== Sys2Proof/Machine/System.lean ====
section
/-! DEFINITION. The system commands (46_system). -/

namespace Sys2Proof.Machine

/-- `NOP` (R240): nothing but `RC <- OK`. -/
def execNop (s : State) : Host.Outcome State Fault Refusal := command .nop s (.completes .ok s)

/-- `SRST` (R241): every piece of state takes its reset value. It is the one command that executes while `STATUS.F` is 1
(60_exceptions R253 step 1). -/
def execSrst (s : State) : Host.Outcome State Fault Refusal := settle (encode .srst) s (.completes .ok s.afterReset)

end Sys2Proof.Machine
end

