-- ==== Sys2Proof/Machine/Dispatch.lean ====
section
/-! DEFINITION. One arm per command, each one call of its meaning. -/

namespace Sys2Proof.Machine

def exec (i : Instr) (s : State) : Host.Outcome State Fault Refusal :=
  match i with
  | .nop => Sys2Proof.Machine.execNop s
  | .srst => Sys2Proof.Machine.execSrst s
  | .bqInit inst rs1 => Sys2Proof.Machine.execBqInit inst rs1 s
  | .bqSetc inst rs1 => Sys2Proof.Machine.execBqSetc inst rs1 s
  | .bqProc inst rd rs1 => Sys2Proof.Machine.execBqProc inst rd rs1 s
  | .bqStab inst rd => Sys2Proof.Machine.execBqStab inst rd s
  | .bqDsgn inst rs1 kind => Sys2Proof.Machine.execBqDsgn inst rs1 kind s
  | .bqRd inst rd field => Sys2Proof.Machine.execBqRd inst rd field s
  | .svfInit inst rs1 kind => Sys2Proof.Machine.execSvfInit inst rs1 kind s
  | .svfSetf inst rs1 => Sys2Proof.Machine.execSvfSetf inst rs1 s
  | .svfSetq inst rs1 => Sys2Proof.Machine.execSvfSetq inst rs1 s
  | .svfSetsr inst rs1 => Sys2Proof.Machine.execSvfSetsr inst rs1 s
  | .svfSetg inst rs1 => Sys2Proof.Machine.execSvfSetg inst rs1 s
  | .svfProc inst rd rs1 => Sys2Proof.Machine.execSvfProc inst rd rs1 s
  | .svfRd inst rd field => Sys2Proof.Machine.execSvfRd inst rd field s
  | .splInit inst rs1 topo => Sys2Proof.Machine.execSplInit inst rs1 topo s
  | .splSetf inst rs1 => Sys2Proof.Machine.execSplSetf inst rs1 s
  | .splSplit inst rd rs1 => Sys2Proof.Machine.execSplSplit inst rd rs1 s
  | .splGain inst rd rs1 rs2 => Sys2Proof.Machine.execSplGain inst rd rs1 rs2 s
  | .splRd inst rd slot field => Sys2Proof.Machine.execSplRd inst rd slot field s
  | .envInit inst rs1 acurve rcurve => Sys2Proof.Machine.execEnvInit inst rs1 acurve rcurve s
  | .envTick inst rd => Sys2Proof.Machine.execEnvTick inst rd s
  | .envSetrel inst rs1 => Sys2Proof.Machine.execEnvSetrel inst rs1 s
  | .envProg inst rd => Sys2Proof.Machine.execEnvProg inst rd s
  | .envDur inst rd => Sys2Proof.Machine.execEnvDur inst rd s
  | .envRd inst rd field => Sys2Proof.Machine.execEnvRd inst rd field s
  | .patDflt inst => Sys2Proof.Machine.execPatDflt inst s
  | .patClr inst => Sys2Proof.Machine.execPatClr inst s
  | .patEval inst rd rs1 => Sys2Proof.Machine.execPatEval inst rd rs1 s
  | .patIns inst rs1 kind => Sys2Proof.Machine.execPatIns inst rs1 kind s
  | .patRm inst rs1 => Sys2Proof.Machine.execPatRm inst rs1 s
  | .patRmpos inst rd rs1 => Sys2Proof.Machine.execPatRmpos inst rd rs1 s
  | .patRmrng inst rd rs1 => Sys2Proof.Machine.execPatRmrng inst rd rs1 s
  | .patInv inst => Sys2Proof.Machine.execPatInv inst s
  | .patRev inst => Sys2Proof.Machine.execPatRev inst s
  | .patRdpt inst rd rs1 => Sys2Proof.Machine.execPatRdpt inst rd rs1 s
  | .patLen inst rd => Sys2Proof.Machine.execPatLen inst rd s
  | .patSclr => Sys2Proof.Machine.execPatSclr s
  | .patSpush rs1 kind => Sys2Proof.Machine.execPatSpush rs1 kind s
  | .patScommit inst => Sys2Proof.Machine.execPatScommit inst s

end Sys2Proof.Machine
end

