-- ==== Sys2Proof/Machine/Flags.lean ====
section
/-! DEFINITION. The codes and the words of the control registers (10_state R36 to R41). `STATUS.RC` is the only flag-like
state: no command sets a condition code (R36). -/

namespace Sys2Proof.Machine

/-- The number of a result code (R36). -/
def ResultCode.code : ResultCode → BitVec 4
  | .ok => 0 | .noValue => 1 | .badPoint => 2 | .badPattern => 3 | .boundary => 4 | .index => 5 | .full => 6

/-- The number of a fault cause (60_exceptions R251). -/
def FaultCause.code : FaultCause → BitVec 8
  | .illegalCmd => 1 | .badInstance => 2 | .uninit => 3 | .topology => 4 | .unimplCurve => 5 | .noBracket => 6

/-- `STATUS` (R36): `F` in bit 0, `BUSY` and bits 3:2 zero, `RC` in bits 7:4, the rest zero. -/
def statusWord (s : State) : Word32 := 0#24 ++ s.rc.code ++ 0#3 ++ BitVec.ofBool s.faulted

/-- `FAULT` (R37): `CAUSE` in bits 7:0, 0 for no fault. -/
def faultWord (s : State) : Word32 :=
  match s.cause with
  | none => 0
  | some c => 0#24 ++ c.code

/-- `ID` (R40). -/
def idWord : Word32 := 0x4D4C5407#32

/-- `CFG0` (R41): the instance counts, each less one. -/
def cfg0Word (c : Cfg) : Word32 :=
  0#12 ++ BitVec.ofNat 4 (c.nPat - 1) ++ BitVec.ofNat 4 (c.nEnv - 1) ++ BitVec.ofNat 4 (c.nSpl - 1)
    ++ BitVec.ofNat 4 (c.nSvf - 1) ++ BitVec.ofNat 4 (c.nBq - 1)

/-- `CFG1` (R41): `PAT_MAX_PTS`, `SPL3_24_INVERT`, `ftz`, `curve_pwr`. -/
def cfg1Word (c : Cfg) : Word32 :=
  0#13 ++ BitVec.ofBool (c.curvePwr == .doc) ++ BitVec.ofBool c.ftz ++ BitVec.ofBool c.spl324Invert
    ++ BitVec.ofNat 16 c.patMaxPts

/-- The output `fault_o` (60_exceptions R263). -/
def faultOut (s : State) : Bool := s.faulted

end Sys2Proof.Machine
end

