-- ==== Sys2Proof/Machine/Port.lean ====
section
/-! DEFINITION. The host port (20_memory R70 to R76): the window's registers, a transaction's answer and effect, and the
reset input (70_reset R280). -/

namespace Sys2Proof.Machine

/-- An aligned offset the window implements (10_state R34, 20_memory R74, R75). -/
def mapped (off : Nat) : Bool := off % 4 == 0 && (off < 0x20 || (0x80 ≤ off && off < 0x100))

/-- The data register an offset from 0x080 on belongs to (20_memory R72). -/
def windowReg (off : Nat) : Reg := BitVec.ofNat 4 ((off - 0x80) / 8)

/-- The offset is that of a high word (20_memory R72). -/
def windowHigh (off : Nat) : Bool := off % 8 == 4

/-- The word a read of a mapped offset returns (10_state R34); reads have no side effect (20_memory R76). -/
def readWord (s : State) (off : Nat) : Word32 :=
  if off < 0x80 then
    match off / 4 with
    | 1 => statusWord s
    | 2 => faultWord s
    | 3 => s.faultCmd
    | 4 => s.faultInfo
    | 5 => idWord
    | 6 => cfg0Word s.cfg
    | 7 => cfg1Word s.cfg
    | _ => 0
  else
    let v := s.getX (windowReg off)
    if windowHigh off then v.extractLsb' 32 32 else v.extractLsb' 0 32

/-- A register with one half replaced (20_memory R72). -/
def replaceHalf (high : Bool) (v : U64) (w : Word32) : U64 :=
  if high then w ++ v.extractLsb' 0 32 else v.extractLsb' 32 32 ++ w

/-- The effect of a write to a mapped offset other than `CMD`: half a data register (20_memory R72), nothing on a
read-only register (R75). -/
def writeWord (s : State) (off : Nat) (w : Word32) : State :=
  if off < 0x80 then s
  else
    let r := windowReg off
    s.setX r (replaceHalf (windowHigh off) (s.getX r) w)

/-- A command transaction (10_state R35): the word is decoded and its command executed; a word that selects no command
raises `ILLEGAL_CMD` (30_encoding R99). -/
def writeCmd (w : Word32) (s : State) : Host.Outcome State Fault Refusal :=
  match decode w with
  | .ok i => exec i s
  | .error _ => illegalWord w s

/-- The state with the port's answer. -/
def State.reply (s : State) (r : PortReply) : State := { s with port := r }

/-- A transaction while the reset input is released: a bus error changes nothing in CORE (20_memory R74, R75). -/
def access (t : HostTxn) (s : State) : Host.Outcome State Fault Refusal :=
  match t with
  | .read off => .next (s.reply (if mapped off then .data (readWord s off) else .busError))
  | .write off w =>
      if mapped off then
        if off = 0 then writeCmd w (s.reply .written) else .next ((writeWord s off w).reply .written)
      else .next (s.reply .busError)
  | .oddWidth .. => .next (s.reply .busError)
  | .resetLine _ => .next s

/-- The reset input (70_reset R280): reset values when it is asserted, and again when it is released. DESIGN CHOICE (log
entry 7): its edges are events of the host's list. -/
def driveReset (asserted : Bool) (s : State) : State :=
  if asserted || s.inReset then { s.afterReset with inReset := asserted, port := .silent } else s.reply .silent

/-- What the host does, done to CORE: "While it is asserted no transaction is served" (70_reset R280). -/
def serve (t : HostTxn) (s : State) : Host.Outcome State Fault Refusal :=
  match t with
  | .resetLine asserted => .next (driveReset asserted s)
  | t => if s.inReset then .next (s.reply .silent) else access t s

end Sys2Proof.Machine
end

