-- ==== Sys2Proof/Machine/Step.lean ====
section
/-! DEFINITION. One step of the machine: the host's next transaction, served to completion (00_scope R6, 20_memory R70,
R81). -/

namespace Sys2Proof.Machine

/-- One step. Without a pending transaction CORE is idle and loses no state (60_exceptions R271). -/
def step (s : State) : Host.Outcome State Fault Refusal :=
  match s.host with
  | [] => .next s
  | t :: rest => serve t { s with host := rest }

/-- The state whose next step runs the command word `w`: the host's next transaction is the write of `w` to `CMD`. A
command is 32 bits (30_encoding R90), so bits of `w` at or above `nbits` are not part of it. -/
def State.withFetchWord (s : State) (nbits w : Nat) : State :=
  { s with host := .write 0 (BitVec.ofNat 32 (w % 2 ^ nbits)) :: s.host }

end Sys2Proof.Machine
end

