-- ==== Sys2Proof/Safety.lean ====
section
/-! DEFINITION. What counts as a good state of CORE, in the terms claims use: the legal parameters (00_scope R7), the
pattern invariants (10_state R53, R54), the fault registers (10_state R37, 60_exceptions R256), the agreement of stored
coefficients with stored parameters (41_svf R128, 43_splitter R176), and the named properties of the spec (42_coefficients
R136, 44_envelope R187). -/

namespace Sys2Proof.Machine

/-- The legal ranges of 00_scope R7. -/
def legalCfg (c : Cfg) : Bool :=
  (1 ≤ c.nBq && c.nBq ≤ 16) && (1 ≤ c.nSvf && c.nSvf ≤ 16) && (1 ≤ c.nSpl && c.nSpl ≤ 16)
    && (1 ≤ c.nEnv && c.nEnv ≤ 16) && (1 ≤ c.nPat && c.nPat ≤ 8) && (2 ≤ c.patMaxPts && c.patMaxPts ≤ 65535)
    && gt c.qLr2 Const.zero && gt c.qAp12 Const.zero && gt c.qAp24 Const.zero && gt c.qShelf Const.zero

/-- The pattern invariants (10_state R51, R53): at most `PAT_MAX_PTS` points, first x 0, last x 1, x-sorted, every point in
the unit square with tension in [-1,1]. -/
def Pattern.wf (c : Cfg) (p : Pattern) : Bool :=
  decide (p.count ≤ c.patMaxPts) && feq p.first.x Const.zero && feq p.last.x Const.one && xSorted p.pts
    && p.pts.all Point.valid

/-- The staging buffer (10_state R54): at most `PAT_MAX_PTS` valid points. -/
def stagingWf (c : Cfg) (l : List Point) : Bool := decide (l.length ≤ c.patMaxPts) && l.all Point.valid

/-- Every pattern selector of an envelope names a pattern this machine has (44_envelope R181, R182). -/
def Envelope.wf (c : Cfg) (e : Envelope) : Bool := curveExists c e.acurve && curveExists c e.rcurve

/-- The fault registers (10_state R36 to R39, 60_exceptions R256): `F` is 1 exactly if a cause is recorded, and without a
fault `FAULTCMD` and `FAULTINFO` are 0. -/
def faultRegistersWf (s : State) : Bool :=
  s.faulted == s.cause.isSome && (s.faulted || (s.faultCmd == 0 && s.faultInfo == 0))

/-- The invariant of the machine: legal parameters, coherent fault registers, every pattern and the staging buffer well
formed, every envelope's selectors in range. -/
def State.wf (s : State) : Bool :=
  legalCfg s.cfg && faultRegistersWf s && s.pat.toList.all (Pattern.wf s.cfg) && stagingWf s.cfg s.stg
    && s.env.toList.all fun o => o.all (Envelope.wf s.cfg)

/-- The invariant as a proposition. -/
abbrev State.Inv (s : State) : Prop := s.wf = true

/-- Every SVF's six coefficients are `svf_strategy` of its stored parameters (10_state R45, 41_svf R128 (a)). -/
def State.SvfCoherent (s : State) : Prop := ∀ i v, bankGet s.svf i = some v → v.recompute s.cfg = v

/-- Every splitter's slots hold what `Configure` gives for its stored frequencies, sample rate and shelf gains
(43_splitter R176 (b)). -/
def State.SplCoherent (s : State) : Prop := ∀ i p, bankGet s.spl i = some p → configure s.cfg p = p

/-- A state in which a command runs: no fault is recorded. -/
abbrev State.Running (s : State) : Prop := s.faulted = false

/-- `BqStrategyStable` (42_coefficients R136), the named obligation on a biquad strategy; a proof may assume it by name.
DESIGN CHOICE (log entry 13): the bound that R136 writes as sr/2 is the quotient `sr /. 2.0` of the machine, rounded and,
under `ftz`, flushed. -/
def BqStrategyStable (c : Cfg) : Prop :=
  ∀ kind f q sr, kind.forBiquad = true → isFinite f = true → isFinite q = true → isFinite sr = true →
    gt f Const.zero = true → lt f ((fpOf c).div sr Const.two) = true → gt q Const.zero = true →
    bqStable (fpOf c) (bqStrategy c kind f q sr).a1 (bqStrategy c kind f q sr).a2 = true

/-- `CurveMonotone(sel)` (44_envelope R187), the named hypothesis on a curve; a proof may assume it by name. -/
def CurveMonotone (s : State) (sel : CurveSel) : Prop :=
  ∀ x y u v, inClosed Const.zero x Const.one = true → inClosed Const.zero y Const.one = true → le x y = true →
    applyCurve s sel x = .ok u → applyCurve s sel y = .ok v → le u v = true

/-! ## Parts of a command, by its word (30_encoding R91) -/

/-- The unit of a command, bits 31:28 of its word: 0 system, 1 BQ, 2 SVF, 3 SPL, 4 ENV, 5 PAT. -/
def unitOf (i : Instr) : Nat := (fieldOpcode (encode i)).toNat / 16

/-- The instance field of a command's word. -/
def instOf (i : Instr) : Idx := fieldInst (encode i)

/-- The instance count of a unit (30_encoding R93). -/
def unitCount (c : Cfg) (unit : Nat) : Nat :=
  if unit = 1 then c.nBq else if unit = 2 then c.nSvf else if unit = 3 then c.nSpl else if unit = 4 then c.nEnv
  else c.nPat

/-- The command has an instance field (30_encoding R92, R96). -/
def hasInst (i : Instr) : Bool :=
  match i.op.format with
  | .z | .sm => false
  | .i | .id | .is | .ids | .idss | .ism | .idm => true

/-- The command constructs its instance: it never raises `UNINIT` (60_exceptions R251). -/
def constructs (i : Instr) : Bool := i.op == .bqInit || i.op == .svfInit || i.op == .splInit || i.op == .envInit

/-- The `valid` bit of the instance a command selects; a pattern is always valid (10_state R51). -/
def instValid (s : State) (unit : Nat) (k : Idx) : Bool :=
  if unit = 1 then (bankGet s.bq k).isSome else if unit = 2 then (bankGet s.svf k).isSome
  else if unit = 3 then (bankGet s.spl k).isSome else if unit = 4 then (bankGet s.env k).isSome
  else true

/-- The most registers a command's destination block has (30_encoding R96); `SRST` is not counted here. -/
def destCount : Instr → Nat
  | .bqProc .. | .bqStab .. | .bqRd .. | .svfProc .. | .svfRd .. | .splGain .. | .splRd .. | .envTick .. | .envProg ..
  | .envDur .. | .envRd .. | .patEval .. | .patRmpos .. | .patRmrng .. | .patLen .. => 1
  | .splSplit .. => 3
  | .patRdpt .. => 4
  | .nop | .srst | .bqInit .. | .bqSetc .. | .bqDsgn .. | .svfInit .. | .svfSetf .. | .svfSetq .. | .svfSetsr ..
  | .svfSetg .. | .splInit .. | .splSetf .. | .envInit .. | .envSetrel .. | .patDflt .. | .patClr .. | .patIns ..
  | .patRm .. | .patInv .. | .patRev .. | .patSclr | .patSpush .. | .patScommit .. => 0

/-! ## Runs and envelopes -/

/-- The state after the same command `n` times; none where it does not answer a next state. -/
def execTimes (i : Instr) : Nat → State → Option State
  | 0, s => some s
  | n + 1, s =>
    match exec i s with
    | .next t => execTimes i n t
    | .fault _ => none
    | .refused _ => none

/-- The order of the phases (44_envelope R183). -/
def Phase.rank : Phase → Nat
  | .delay => 0 | .attack => 1 | .release => 2 | .complete => 3

/-- The value is the whole number `n`: `n * 2^1074` units, the sign of a zero left open. -/
def isCount (a : F64) (n : Nat) : Prop := isFinite a = true ∧ value a = (n : Int) * 2 ^ 1074

/-- The kinds whose evaluation is implemented (45_pattern R211 to R213). -/
def CurveKind.implemented : CurveKind → Bool
  | .hold | .curve | .sCurve => true
  | .pulse | .wave | .triangle | .stairs | .smoothStairs => false

/-- No pattern of the machine holds a point of an unimplemented kind. -/
def State.CurvesImplemented (s : State) : Prop := ∀ k, ∀ q ∈ (s.getPat k).pts, CurveKind.implemented q.kind = true

end Sys2Proof.Machine
end

