-- ==== Sys2Proof/Certificates/Slice0/Obligations.lean ====
section
/-! DEFINITION. The statements for the provers, made from the numbered rules of the spec. A next state is written as the
old state with the fields that change, so every other register, flag, instance, pattern and staging record is stated to be
unchanged. A statement that rests on a choice of the model names the log entry. -/

open Sys2Proof Sys2Proof.Machine

/-! ## Encoding -/

/-- 30_encoding R91 to R97: the decoder gives back every well-formed command from its word. -/
def Obligations.DecodeOfEncodeIsIdentity : Prop :=
  ∀ i : Instr, WellFormed i → decode (encode i) = .ok i

/-- 30_encoding R97: a word that selects a command is that command's word, and the command is well formed; so two words
never select one command. -/
def Obligations.EncodeOfDecodeIsIdentity : Prop :=
  ∀ (w : Word32) (i : Instr), decode w = .ok i → WellFormed i ∧ encode i = w

/-- 30_encoding R98: the reserved opcodes, and `NOP` as the only word that is a no-op. -/
def Obligations.ReservedOpcodesAreRejected : Prop :=
  (∀ w : Word32, decode w = .error .reservedOpcode ↔
    (0x02 ≤ (fieldOpcode w).toNat ∧ (fieldOpcode w).toNat ≤ 0x0F) ∨
    (0x16 ≤ (fieldOpcode w).toNat ∧ (fieldOpcode w).toNat ≤ 0x1F) ∨
    (0x27 ≤ (fieldOpcode w).toNat ∧ (fieldOpcode w).toNat ≤ 0x2F) ∨
    (0x35 ≤ (fieldOpcode w).toNat ∧ (fieldOpcode w).toNat ≤ 0x3F) ∨
    (0x46 ≤ (fieldOpcode w).toNat ∧ (fieldOpcode w).toNat ≤ 0x4F) ∨
    0x5E ≤ (fieldOpcode w).toNat) ∧
  ∀ w : Word32, decode w = .ok .nop ↔ w = 0x00000000#32

/-- The example words of 30_encoding R100, of the command rules, and rejected words of 95_test_vectors V60. -/
def Obligations.SampleWordsDecode : Prop :=
  decode 0x01000000#32 = .ok .srst ∧
  decode 0x12010000#32 = .ok (.bqProc 0 1 0) ∧
  decode 0x20204001#32 = .ok (.svfInit 2 4 .hp) ∧
  decode 0x33280100#32 = .ok (.splGain 2 8 0 1) ∧
  decode 0x340900F1#32 = .ok (.splRd 0 9 15 1) ∧
  decode 0x40000090#32 = .ok (.envInit 0 0 .sine (.pat 1)) ∧
  decode 0x5C004001#32 = .ok (.patSpush 4 .curve) ∧
  decode 0x5E000000#32 = .error .reservedOpcode ∧
  decode 0x12000001#32 = .error .unusedField ∧
  decode 0x40000002#32 = .error .immRange

/-- 30_encoding R99: a word that selects no command raises `ILLEGAL_CMD` and changes no other state. -/
def Obligations.IllegalWordRaisesIllegalCmd : Prop :=
  ∀ (s : State) (w : Word32) (rest : List HostTxn), s.inReset = false → s.Running → s.host = .write 0 w :: rest →
    (∀ i, decode w ≠ .ok i) →
    step s = .next { s with
      host := rest, port := .written, faulted := true, cause := some .illegalCmd, faultCmd := w, faultInfo := 0 }

/-! ## The machine -/

/-- 10_state R35, 30_encoding R90: a write of a command's word to `CMD` runs the command, with the write taken from the
host's list and answered; and so does the word that `withFetchWord` places (log entry 5). -/
def Obligations.StepRunsTheDecodedCommand : Prop :=
  (∀ (s : State) (w : Word32) (i : Instr) (rest : List HostTxn), s.inReset = false → s.host = .write 0 w :: rest →
    decode w = .ok i → step s = exec i { s with host := rest, port := .written }) ∧
  ∀ (s : State) (nbits w : Nat) (i : Instr), s.inReset = false → decodeTableWord nbits w = some i →
    step (s.withFetchWord nbits w) = exec i { s with port := .written }

/-- The model's choice, log entries 5 and 6: no step of this machine stops; every fault of CORE is a state of CORE. -/
def Obligations.EveryStepAnswersNext : Prop := ∀ s : State, ∃ t, step s = .next t

/-- 60_exceptions R257: while `F` is 1 every word but `SRST` is refused, and the data registers stay readable and
writable. -/
def Obligations.FaultedMachineRefusesCommands : Prop :=
  ∀ (s : State) (rest : List HostTxn), s.inReset = false → s.faulted = true →
    (∀ w, w ≠ 0x01000000#32 → s.host = .write 0 w :: rest →
      step s = .next { s with host := rest, port := .written }) ∧
    (∀ r : Reg, s.host = .read (0x80 + 8 * r.toNat) :: rest →
      step s = .next { s with host := rest, port := .data ((s.getX r).extractLsb' 0 32) }) ∧
    (∀ r : Reg, s.host = .read (0x84 + 8 * r.toNat) :: rest →
      step s = .next { s with host := rest, port := .data ((s.getX r).extractLsb' 32 32) }) ∧
    (∀ (r : Reg) (v : Word32), s.host = .write (0x80 + 8 * r.toNat) v :: rest →
      step s = .next { s with
        host := rest, port := .written, x := bankSet s.x r ((s.getX r).extractLsb' 32 32 ++ v) }) ∧
    (∀ (r : Reg) (v : Word32), s.host = .write (0x84 + 8 * r.toNat) v :: rest →
      step s = .next { s with
        host := rest, port := .written, x := bankSet s.x r (v ++ (s.getX r).extractLsb' 0 32) })

/-- 60_exceptions R258: a fault leaves the state before it plus the four fault registers, for a command and for any word
the host writes to `CMD` (the transaction itself is taken from the host's list and answered, log entry 5). -/
def Obligations.FaultsArePrecise : Prop :=
  (∀ (i : Instr) (s t : State), s.Running → exec i s = .next t → t.faulted = true →
    ∃ c info, t = { s with faulted := true, cause := some c, faultCmd := encode i, faultInfo := info }) ∧
  ∀ (s t : State) (w : Word32) (rest : List HostTxn), s.inReset = false → s.Running → s.host = .write 0 w :: rest →
    step s = .next t → t.faulted = true →
    ∃ c info, t = { s with
      host := rest, port := .written, faulted := true, cause := some c, faultCmd := w, faultInfo := info }

/-- Clauses 2 and 3 are 60_exceptions R253 steps 3 and 4: instance range before `valid`. Clause 1 is the model's choice,
DESIGN CHOICE of log entry 9: a term of `Instr` that is not well formed, which no word decodes to, executes as
`ILLEGAL_CMD` whatever its instance. Of the words a host writes, step 2 (decode first) is stated by
`IllegalWordRaisesIllegalCmd`. -/
def Obligations.DecodeRangeAndValidChecksInOrder : Prop :=
  ∀ (i : Instr) (s : State), s.Running →
    (¬ WellFormed i →
      exec i s = .next { s with faulted := true, cause := some .illegalCmd, faultCmd := encode i, faultInfo := 0 }) ∧
    (WellFormed i → hasInst i = true → unitCount s.cfg (unitOf i) ≤ (instOf i).toNat →
      exec i s = .next { s with faulted := true, cause := some .badInstance, faultCmd := encode i, faultInfo := 0 }) ∧
    (WellFormed i → hasInst i = true → (instOf i).toNat < unitCount s.cfg (unitOf i) → constructs i = false →
      instValid s (unitOf i) (instOf i) = false →
      exec i s = .next { s with faulted := true, cause := some .uninit, faultCmd := encode i, faultInfo := 0 })

/-- 60_exceptions R256: `F` is sticky and the fault registers keep describing the first fault, until the reset input is
asserted or `SRST` executes. -/
def Obligations.FaultIsSticky : Prop :=
  ∀ s t : State, s.faulted = true → s.inReset = false → step s = .next t →
    (∀ rest, s.host ≠ .write 0 0x01000000#32 :: rest) → (∀ rest, s.host ≠ .resetLine true :: rest) →
    t.faulted = true ∧ t.cause = s.cause ∧ t.faultCmd = s.faultCmd ∧ t.faultInfo = s.faultInfo

/-- 60_exceptions R252, 44_envelope R184: a completing command with a result code other than `OK` changes nothing but
`STATUS.RC`, and only the listed commands give each code. -/
def Obligations.ErrorCodesChangeOnlyRc : Prop :=
  ∀ (i : Instr) (s t : State), s.Running → exec i s = .next t → t.faulted = false → t.rc ≠ .ok →
    t = { s with rc := t.rc } ∧
    (t.rc = .noValue → i.op = .envTick) ∧
    (t.rc = .badPoint → i.op = .patIns ∨ i.op = .patSpush) ∧
    (t.rc = .badPattern → i.op = .patScommit) ∧
    (t.rc = .boundary → i.op = .patRm) ∧
    (t.rc = .index → i.op = .patRm ∨ i.op = .patRdpt ∨ i.op = .splRd) ∧
    (t.rc = .full → i.op = .patIns ∨ i.op = .patSpush)

/-- 10_state R53, R54, 45_pattern R230 (a), 60_exceptions R256: every step keeps the invariant. -/
def Obligations.EveryStepKeepsTheInvariant : Prop :=
  ∀ s t : State, s.Inv → step s = .next t → t.Inv

/-- 10_state R45, 41_svf R128 (a): every step keeps every SVF's coefficients those of its stored parameters. -/
def Obligations.EveryStepKeepsSvfCoefficients : Prop :=
  ∀ s t : State, s.SvfCoherent → step s = .next t → t.SvfCoherent

/-- 43_splitter R176 (b): every step keeps every splitter's slots what `Configure` gives. -/
def Obligations.EveryStepKeepsSplitterCoefficients : Prop :=
  ∀ s t : State, s.SplCoherent → step s = .next t → t.SplCoherent

/-- The invariants hold right after reset (10_state R56). -/
def Obligations.ResetStateHasTheInvariants : Prop :=
  State.reset.Inv ∧ State.reset.SvfCoherent ∧ State.reset.SplCoherent

/-- 10_state R31, R56: the reset values, with the default parameters for the constants. -/
def Obligations.ResetValues : Prop :=
  (∀ r, State.reset.getX r = 0x0000000000000000#64) ∧
  statusWord State.reset = 0 ∧ faultWord State.reset = 0 ∧ State.reset.faultCmd = 0 ∧ State.reset.faultInfo = 0 ∧
  idWord = 0x4D4C5407#32 ∧ cfg0Word State.reset.cfg = 0x00077377#32 ∧ cfg1Word State.reset.cfg = 0x00000040#32 ∧
  (∀ i, bankGet State.reset.bq i = none) ∧ (∀ i, bankGet State.reset.svf i = none) ∧
  (∀ i, bankGet State.reset.spl i = none) ∧ (∀ i, bankGet State.reset.env i = none) ∧
  (∀ i, (State.reset.getPat i).pts =
    [⟨Const.zero, Const.zero, Const.zero, .curve⟩, ⟨Const.one, Const.one, Const.zero, .curve⟩]) ∧
  State.reset.stg = []

/-- 46_system R241, 70_reset R283: `SRST` gives every piece of state its reset value in any state, faulted or not, and
leaves the parameters (log entry 1). -/
def Obligations.SrstGivesTheResetState : Prop :=
  (∀ s : State, exec .srst s = .next
    { State.reset with cfg := s.cfg, inReset := s.inReset, host := s.host, port := s.port }) ∧
  ∀ (s : State) (rest : List HostTxn), s.inReset = false → s.host = .write 0 0x01000000#32 :: rest →
    step s = .next { State.reset with cfg := s.cfg, inReset := false, host := rest, port := .written }

/-- 70_reset R280 (how the input is driven is the model's, log entry 7): reset values when the input is asserted and when
it is released, no transaction served in between. -/
def Obligations.ResetInputResetsAndBlocks : Prop :=
  (∀ (s : State) (rest : List HostTxn), s.host = .resetLine true :: rest →
    step s = .next { State.reset with cfg := s.cfg, inReset := true, host := rest, port := .silent }) ∧
  (∀ (s : State) (rest : List HostTxn) (tx : HostTxn), s.inReset = true → s.host = tx :: rest →
    (∀ b, tx ≠ .resetLine b) → step s = .next { s with host := rest, port := .silent }) ∧
  (∀ (s : State) (rest : List HostTxn), s.inReset = true → s.host = .resetLine false :: rest →
    step s = .next { State.reset with cfg := s.cfg, inReset := false, host := rest, port := .silent }) ∧
  (∀ (s : State) (rest : List HostTxn), s.inReset = false → s.host = .resetLine false :: rest →
    step s = .next { s with host := rest, port := .silent })

/-- 20_memory R74, R75: transactions of another width, misaligned, or to an offset that is not implemented, and writes to
the read-only registers. -/
def Obligations.BusErrorsChangeNothing : Prop :=
  ∀ (s : State) (rest : List HostTxn), s.inReset = false →
    (∀ store off width, s.host = .oddWidth store off width :: rest →
      step s = .next { s with host := rest, port := .busError }) ∧
    (∀ off, (off % 4 ≠ 0 ∨ (0x20 ≤ off ∧ off ≤ 0x7F) ∨ 0x100 ≤ off) →
      (s.host = .read off :: rest → step s = .next { s with host := rest, port := .busError }) ∧
      ∀ v, s.host = .write off v :: rest → step s = .next { s with host := rest, port := .busError }) ∧
    ∀ off v, off ∈ [0x04, 0x08, 0x0C, 0x10, 0x14, 0x18, 0x1C] → s.host = .write off v :: rest →
      step s = .next { s with host := rest, port := .written }

/-- 10_state R34 to R41, 20_memory R76: what a read of each control register returns, and that it changes nothing. -/
def Obligations.ControlRegisterReads : Prop :=
  ∀ (s : State) (rest : List HostTxn), s.inReset = false → legalCfg s.cfg = true →
    ∀ (off : Nat) (v : Word32),
      (off = 0x00 ∧ v = 0) ∨
      (off = 0x04 ∧ v = BitVec.ofNat 32 ((if s.faulted then 1 else 0) + 16 * (match s.rc with
        | .ok => 0 | .noValue => 1 | .badPoint => 2 | .badPattern => 3 | .boundary => 4 | .index => 5 | .full => 6))) ∨
      (off = 0x08 ∧ v = BitVec.ofNat 32 (match s.cause with
        | none => 0 | some .illegalCmd => 1 | some .badInstance => 2 | some .uninit => 3 | some .topology => 4
        | some .unimplCurve => 5 | some .noBracket => 6)) ∨
      (off = 0x0C ∧ v = s.faultCmd) ∨
      (off = 0x10 ∧ v = s.faultInfo) ∨
      (off = 0x14 ∧ v = 0x4D4C5407#32) ∨
      (off = 0x18 ∧ v = BitVec.ofNat 32 ((s.cfg.nBq - 1) + 0x10 * (s.cfg.nSvf - 1) + 0x100 * (s.cfg.nSpl - 1)
        + 0x1000 * (s.cfg.nEnv - 1) + 0x10000 * (s.cfg.nPat - 1))) ∨
      (off = 0x1C ∧ v = BitVec.ofNat 32 (s.cfg.patMaxPts + 0x10000 * (if s.cfg.spl324Invert then 1 else 0)
        + 0x20000 * (if s.cfg.ftz then 1 else 0) + 0x40000 * (if s.cfg.curvePwr = .doc then 1 else 0))) →
      s.host = .read off :: rest → step s = .next { s with host := rest, port := .data v }

/-- 20_memory R72, 30_encoding R101: the two halves of a data register in the window, and a register loaded by two
writes, in either order. -/
def Obligations.DataRegistersAreTwoWords : Prop :=
  ∀ (s : State) (rest : List HostTxn) (r : Reg), s.inReset = false →
    (s.host = .read (0x080 + 8 * r.toNat) :: rest →
      step s = .next { s with host := rest, port := .data ((s.getX r).extractLsb' 0 32) }) ∧
    (s.host = .read (0x084 + 8 * r.toNat) :: rest →
      step s = .next { s with host := rest, port := .data ((s.getX r).extractLsb' 32 32) }) ∧
    (∀ v : Word32, s.host = .write (0x080 + 8 * r.toNat) v :: rest →
      step s = .next { s with
        host := rest, port := .written, x := bankSet s.x r ((s.getX r).extractLsb' 32 32 ++ v) }) ∧
    (∀ v : Word32, s.host = .write (0x084 + 8 * r.toNat) v :: rest →
      step s = .next { s with
        host := rest, port := .written, x := bankSet s.x r (v ++ (s.getX r).extractLsb' 0 32) }) ∧
    (∀ lo hi : Word32,
      (s.host = .write (0x080 + 8 * r.toNat) lo :: .write (0x084 + 8 * r.toNat) hi :: rest ∨
        s.host = .write (0x084 + 8 * r.toNat) hi :: .write (0x080 + 8 * r.toNat) lo :: rest) →
      ∃ t, step s = .next t ∧
        step t = .next { s with host := rest, port := .written, x := bankSet s.x r (hi ++ lo) })

/-- 40_biquad R116 (a), 43_splitter R176 (a), 44_envelope R193 (a), 45_pattern R230 (c), 10_state R46: a command other
than `SRST` changes no instance but the one it selects, no other unit, and neither the parameters nor the port; only the
staging commands change the staging buffer. -/
def Obligations.CommandsTouchOnlyTheirInstance : Prop :=
  ∀ (i : Instr) (s t : State), i ≠ .srst → exec i s = .next t →
    t.cfg = s.cfg ∧ t.inReset = s.inReset ∧ t.host = s.host ∧ t.port = s.port ∧
    (∀ k, unitOf i ≠ 1 ∨ instOf i ≠ k → bankGet t.bq k = bankGet s.bq k) ∧
    (∀ k, unitOf i ≠ 2 ∨ instOf i ≠ k → bankGet t.svf k = bankGet s.svf k) ∧
    (∀ k, unitOf i ≠ 3 ∨ instOf i ≠ k → bankGet t.spl k = bankGet s.spl k) ∧
    (∀ k, unitOf i ≠ 4 ∨ instOf i ≠ k → bankGet t.env k = bankGet s.env k) ∧
    (∀ k, unitOf i ≠ 5 ∨ instOf i ≠ k → t.getPat k = s.getPat k) ∧
    (i.op ≠ .patSclr → i.op ≠ .patSpush → t.stg = s.stg)

/-- 30_encoding R95, R96: a command other than `SRST` changes no data register outside its destination block. -/
def Obligations.CommandsWriteOnlyTheirDestination : Prop :=
  ∀ (i : Instr) (s t : State) (r : Reg), i ≠ .srst → exec i s = .next t →
    (∀ k, k < destCount i → r ≠ fieldRd (encode i) + BitVec.ofNat 4 k) → t.getX r = s.getX r

/-! ## System -/

/-- 46_system R240: `NOP` does nothing but overwrite the result code, and nothing at all while a fault is recorded. -/
def Obligations.NopWritesOnlyRc : Prop :=
  ∀ s : State, (s.Running → exec .nop s = .next { s with rc := .ok }) ∧ (s.faulted = true → exec .nop s = .next s)

/-! ## Biquad -/

/-- 40_biquad R110, R111, R114: `BQ.INIT` loads five coefficients and clears the history; `BQ.SETC` loads them and leaves the
history; `BQ.DSGN` replaces them by those of the strategy and leaves the history. -/
def Obligations.BiquadCoefficientCommands : Prop :=
  (∀ (s : State) (inst : Idx) (rs1 : Reg), s.Running → inst.toNat < s.cfg.nBq →
     exec (.bqInit inst rs1) s = .next { s with
       bq := bankSet s.bq inst (some
         { b0 := s.getX rs1, b1 := s.getX (rs1 + 1), b2 := s.getX (rs1 + 2), a1 := s.getX (rs1 + 3),
           a2 := s.getX (rs1 + 4), x1 := Const.zero, x2 := Const.zero, y1 := Const.zero, y2 := Const.zero }),
       rc := .ok } ∧
     ∀ b, bankGet s.bq inst = some b →
       exec (.bqSetc inst rs1) s = .next { s with
         bq := bankSet s.bq inst (some
           { b0 := s.getX rs1, b1 := s.getX (rs1 + 1), b2 := s.getX (rs1 + 2), a1 := s.getX (rs1 + 3),
             a2 := s.getX (rs1 + 4), x1 := b.x1, x2 := b.x2, y1 := b.y1, y2 := b.y2 }),
         rc := .ok }) ∧
  (∀ (s : State) (inst : Idx) (rs1 : Reg) (kind : FilterKind) (b : Biquad), s.Running → inst.toNat < s.cfg.nBq →
     bankGet s.bq inst = some b → kind.forBiquad = true →
     let c := bqStrategy s.cfg kind (s.getX rs1) (s.getX (rs1 + 1)) (s.getX (rs1 + 2))
     exec (.bqDsgn inst rs1 kind) s = .next { s with
       bq := bankSet s.bq inst (some { b with b0 := c.b0, b1 := c.b1, b2 := c.b2, a1 := c.a1, a2 := c.a2 }), rc := .ok })

/-- 40_biquad R112: `BQ.PROC` applies the difference equation, left to right, and shifts the history. -/
def Obligations.BiquadProcess : Prop :=
  ∀ (s : State) (inst : Idx) (rd rs1 : Reg) (b : Biquad), s.Running → inst.toNat < s.cfg.nBq →
    bankGet s.bq inst = some b →
    let A := s.fp
    let x := s.getX rs1
    let y := A.sub (A.sub (A.add (A.add (A.mul b.b0 x) (A.mul b.b1 b.x1)) (A.mul b.b2 b.x2)) (A.mul b.a1 b.y1))
      (A.mul b.a2 b.y2)
    exec (.bqProc inst rd rs1) s = .next { s with
      bq := bankSet s.bq inst (some { b with x1 := x, x2 := b.x1, y1 := y, y2 := b.y1 }),
      x := bankSet s.x rd y, rc := .ok }

/-- 40_biquad R113, R115: `BQ.STAB` writes the integer 1 or 0; 0 for every `a1` of magnitude 2 or more whatever `a2`, for an
`a2` of 1 or more, and for a NaN. `BQ.RD` reads one of the nine elements. Neither changes the biquad. -/
def Obligations.BiquadQueries : Prop :=
  (∀ (s : State) (inst : Idx) (rd : Reg) (b : Biquad), s.Running → inst.toNat < s.cfg.nBq → bankGet s.bq inst = some b →
     ∃ v : U64, exec (.bqStab inst rd) s = .next { s with x := bankSet s.x rd v, rc := .ok } ∧
       (lt (Machine.abs b.a1) Const.two = true → lt (s.fp.sub (Machine.abs b.a1) Const.one) b.a2 = true →
         lt b.a2 Const.one = true → v = 1) ∧
       (¬ (lt (Machine.abs b.a1) Const.two = true ∧ lt (s.fp.sub (Machine.abs b.a1) Const.one) b.a2 = true ∧
         lt b.a2 Const.one = true) → v = 0) ∧
       ((ge (Machine.abs b.a1) Const.two = true ∨ ge b.a2 Const.one = true ∨ isNaN b.a1 = true ∨ isNaN b.a2 = true) →
         v = 0)) ∧
  (∀ (s : State) (inst : Idx) (rd : Reg) (field : BqField) (b : Biquad), s.Running → inst.toNat < s.cfg.nBq →
     bankGet s.bq inst = some b →
     exec (.bqRd inst rd field) s = .next { s with
       x := bankSet s.x rd (match field with
         | .b0 => b.b0 | .b1 => b.b1 | .b2 => b.b2 | .a1 => b.a1 | .a2 => b.a2
         | .x1 => b.x1 | .x2 => b.x2 | .y1 => b.y1 | .y2 => b.y2),
       rc := .ok })

/-- 42_coefficients R137 to R148: the default strategies of both engines, operator by operator. Two clauses are the model's
choice: the SVF low-pass in every configuration (DESIGN CHOICE, log entry 4), and the low shelf's `m0` under a NaN gain, a NaN
by 43_splitter R171 or 1.0 by R143, as `cfg.nanShelf` says (DESIGN CHOICE, log entry 14). -/
def Obligations.DefaultStrategies : Prop :=
  (∀ (c : Cfg) (f q sr : F64), c.bqStrategies = .default →
     let A := fpOf c
     let w0 := A.div (A.mul (A.mul Const.two Const.pi) f) sr
     let cw := cosF A w0
     let alpha := A.div (sinF A w0) (A.mul Const.two q)
     let a0 := A.add Const.one alpha
     let a1 := A.div (A.mul Const.negTwo cw) a0
     let a2 := A.div (A.sub Const.one alpha) a0
     let l := A.sub Const.one cw
     let h := A.add Const.one cw
     bqStrategy c .lp f q sr =
       ⟨A.div (A.div l Const.two) a0, A.div l a0, A.div (A.div l Const.two) a0, a1, a2⟩ ∧
     bqStrategy c .hp f q sr =
       ⟨A.div (A.div h Const.two) a0, A.div (neg h) a0, A.div (A.div h Const.two) a0, a1, a2⟩ ∧
     bqStrategy c .ap f q sr =
       ⟨A.div (A.sub Const.one alpha) a0, A.div (A.mul Const.negTwo cw) a0, A.div (A.add Const.one alpha) a0, a1, a2⟩) ∧
  (∀ (c : Cfg) (f q sr gain : F64),
     let A := fpOf c
     let k := A.div Const.one q
     let g0 := tanF A (A.div (A.mul Const.pi f) sr)
     let amp := A.sqrt gain
     let a1 := fun g => A.div Const.one (A.add Const.one (A.mul g (A.add g k)))
     let a2 := fun g => A.mul g (a1 g)
     let a3 := fun g => A.mul g (a2 g)
     let gl := A.div g0 (A.sqrt amp)
     let gh := A.mul g0 (A.sqrt amp)
     svfStrategy c .lp f q sr gain = ⟨a1 g0, a2 g0, a3 g0, Const.zero, Const.zero, Const.one⟩ ∧
     (c.svfStrategies = .default →
       svfStrategy c .hp f q sr gain = ⟨a1 g0, a2 g0, a3 g0, Const.one, neg k, Const.negOne⟩ ∧
       svfStrategy c .ap f q sr gain = ⟨a1 g0, a2 g0, a3 g0, Const.one, neg (A.mul Const.two k), Const.zero⟩ ∧
       svfStrategy c .ls f q sr gain = ⟨a1 gl, a2 gl, a3 gl,
         if c.nanShelf = .everyCoefficient ∧ isNaN gain = true then freeNaN .mul gain gain else Const.one, A.mul k (A.sub amp Const.one),
         A.sub (A.mul amp amp) Const.one⟩ ∧
       svfStrategy c .hs f q sr gain = ⟨a1 gh, a2 gh, a3 gh, A.mul amp amp,
         A.mul (A.mul k (A.sub Const.one amp)) amp, A.sub Const.one (A.mul amp amp)⟩))

/-! ## SVF -/

/-- 41_svf R120: `SVF.INIT` stores the parameters, clears the integrators and computes the coefficients. -/
def Obligations.SvfConstruction : Prop :=
  ∀ (s : State) (inst : Idx) (rs1 : Reg) (kind : FilterKind), s.Running → inst.toNat < s.cfg.nSvf →
    let f := s.getX rs1
    let q := s.getX (rs1 + 1)
    let sr := s.getX (rs1 + 2)
    let gain := s.getX (rs1 + 3)
    let c := svfStrategy s.cfg kind f q sr gain
    exec (.svfInit inst rs1 kind) s = .next { s with
      svf := bankSet s.svf inst (some
        { a1 := c.a1, a2 := c.a2, a3 := c.a3, m0 := c.m0, m1 := c.m1, m2 := c.m2, ic1eq := Const.zero,
          ic2eq := Const.zero, f := f, q := q, sr := sr, gain := gain, kind := kind }),
      rc := .ok }

/-- 41_svf R121 to R125: a setter with an equal value changes nothing; another value is stored and the six coefficients are
recomputed, the integrators untouched. -/
def Obligations.SvfSetters : Prop :=
  ∀ (s : State) (inst : Idx) (rs1 : Reg) (u : Svf), s.Running → inst.toNat < s.cfg.nSvf →
    bankGet s.svf inst = some u →
    let v := s.getX rs1
    let put := fun (f q sr gain : F64) =>
      let c := svfStrategy s.cfg u.kind f q sr gain
      ({ s with
        svf := bankSet s.svf inst (some
          { a1 := c.a1, a2 := c.a2, a3 := c.a3, m0 := c.m0, m1 := c.m1, m2 := c.m2, ic1eq := u.ic1eq,
            ic2eq := u.ic2eq, f := f, q := q, sr := sr, gain := gain, kind := u.kind }),
        rc := .ok } : State)
    exec (.svfSetf inst rs1) s = .next (if feq v u.f = true then { s with rc := .ok } else put v u.q u.sr u.gain) ∧
    exec (.svfSetq inst rs1) s = .next (if feq v u.q = true then { s with rc := .ok } else put u.f v u.sr u.gain) ∧
    exec (.svfSetsr inst rs1) s = .next (if feq v u.sr = true then { s with rc := .ok } else put u.f u.q v u.gain) ∧
    exec (.svfSetg inst rs1) s = .next (if feq v u.gain = true then { s with rc := .ok } else put u.f u.q u.sr v)

/-- 41_svf R126: `SVF.PROC`, both integrators updated from their old values. -/
def Obligations.SvfProcess : Prop :=
  ∀ (s : State) (inst : Idx) (rd rs1 : Reg) (u : Svf), s.Running → inst.toNat < s.cfg.nSvf →
    bankGet s.svf inst = some u →
    let A := s.fp
    let v0 := s.getX rs1
    let v3 := A.sub v0 u.ic2eq
    let v1 := A.add (A.mul u.a1 u.ic1eq) (A.mul u.a2 v3)
    let v2 := A.add (A.add u.ic2eq (A.mul u.a2 u.ic1eq)) (A.mul u.a3 v3)
    let y := A.add (A.add (A.mul u.m0 v0) (A.mul u.m1 v1)) (A.mul u.m2 v2)
    exec (.svfProc inst rd rs1) s = .next { s with
      svf := bankSet s.svf inst (some
        { u with ic1eq := A.sub (A.mul Const.two v1) u.ic1eq, ic2eq := A.sub (A.mul Const.two v2) u.ic2eq }),
      x := bankSet s.x rd y, rc := .ok }

/-- 41_svf R127: `SVF.RD` reads one of the thirteen elements, the kind as a tag. -/
def Obligations.SvfRead : Prop :=
  ∀ (s : State) (inst : Idx) (rd : Reg) (field : SvfField) (u : Svf), s.Running → inst.toNat < s.cfg.nSvf →
    bankGet s.svf inst = some u →
    exec (.svfRd inst rd field) s = .next { s with
      x := bankSet s.x rd (match field with
        | .a1 => u.a1 | .a2 => u.a2 | .a3 => u.a3 | .m0 => u.m0 | .m1 => u.m1 | .m2 => u.m2
        | .ic1eq => u.ic1eq | .ic2eq => u.ic2eq | .f => u.f | .q => u.q | .sr => u.sr | .gain => u.gain
        | .kind => match u.kind with | .lp => 0 | .hp => 1 | .ap => 2 | .ls => 3 | .hs => 4),
      rc := .ok }

/-- 42_coefficients R143, 41_svf R126: with the default strategies a shelf of gain 1.0 returns its input, for finite inner
values. -/
def Obligations.UnityShelfIsIdentity : Prop :=
  ∀ (s t : State) (inst : Idx) (rd rs1 : Reg) (u : Svf), s.Running → inst.toNat < s.cfg.nSvf →
    bankGet s.svf inst = some u → s.SvfCoherent → s.cfg.svfStrategies = .default → s.cfg.ftz = false →
    (u.kind = .ls ∨ u.kind = .hs) → u.gain = Const.one → isFinite (s.fp.div Const.one u.q) = true →
    isFinite (s.getX rs1) = true →
    isFinite (svfTaps s.fp u (s.getX rs1)).v1 = true → isFinite (svfTaps s.fp u (s.getX rs1)).v2 = true →
    exec (.svfProc inst rd rs1) s = .next t → feq (t.getX rd) (s.getX rs1) = true

/-! ## Splitter -/

/-- 43_splitter R155, R156 with 42_coefficients R150: `SPL.INIT` of each topology, every used slot with its strategy, zero
history and gain 1.0. -/
def Obligations.SplitterConstruction : Prop :=
  ∀ (s : State) (inst : Idx) (rs1 : Reg), s.Running → inst.toNat < s.cfg.nSpl →
    let c := s.cfg
    let r0 := s.getX rs1
    let r1 := s.getX (rs1 + 1)
    let r2 := s.getX (rs1 + 2)
    let z := Const.zero
    let bqSlot := fun (kind : FilterKind) (f q sr : F64) =>
      let k := bqStrategy c kind f q sr
      ({ b0 := k.b0, b1 := k.b1, b2 := k.b2, a1 := k.a1, a2 := k.a2, x1 := z, x2 := z, y1 := z, y2 := z } : Biquad)
    let svfSlot := fun (kind : FilterKind) (f q sr : F64) =>
      let k := svfStrategy c kind f q sr Const.one
      ({ a1 := k.a1, a2 := k.a2, a3 := k.a3, m0 := k.m0, m1 := k.m1, m2 := k.m2, ic1eq := z, ic2eq := z, f := f, q := q,
         sr := sr, gain := Const.one, kind := kind } : Svf)
    let put := fun (p : Splitter) => ({ s with spl := bankSet s.spl inst (some p), rc := .ok } : State)
    let lp := fun f sr => bqSlot .lp f Const.qButter sr
    let hp := fun f sr => bqSlot .hp f Const.qButter sr
    exec (.splInit inst rs1 .b2x24) s = .next (put ⟨r0, r1, .b2x24 (lp r0 r1) (lp r0 r1) (hp r0 r1) (hp r0 r1)⟩) ∧
    exec (.splInit inst rs1 .b2x12) s = .next (put
      ⟨r0, r1, .b2x12 (svfSlot .lp r0 c.qLr2 r1) (svfSlot .hp r0 c.qLr2 r1)⟩) ∧
    exec (.splInit inst rs1 .b3x12) s = .next (put
      ⟨r0, r2, .b3x12 r1 (svfSlot .lp r0 c.qLr2 r2) (svfSlot .hp r0 c.qLr2 r2) (svfSlot .ap r1 c.qAp12 r2)
        (svfSlot .lp r1 c.qLr2 r2) (svfSlot .hp r1 c.qLr2 r2)⟩) ∧
    exec (.splInit inst rs1 .b3x24) s = .next (put
      ⟨r0, r2, .b3x24 r1 (lp r0 r2) (lp r0 r2) (hp r0 r2) (hp r0 r2) (bqSlot .ap r1 c.qAp24 r2)
        (lp r1 r2) (lp r1 r2) (hp r1 r2) (hp r1 r2)⟩) ∧
    exec (.splInit inst rs1 .dyn3) s = .next (put
      ⟨r0, r2, .dyn3 r1 (svfSlot .ls r0 c.qShelf r2) (svfSlot .hs r1 c.qShelf r2)⟩)

/-- 43_splitter R156, R157: `SPL.SETF` stores the new frequencies and replaces every used slot's coefficients, never its
history nor the sample rate. -/
def Obligations.SplitterSetFrequencies : Prop :=
  ∀ (s : State) (inst : Idx) (rs1 : Reg) (f1 sr : F64) (body : SplBody), s.Running → inst.toNat < s.cfg.nSpl →
    bankGet s.spl inst = some ⟨f1, sr, body⟩ →
    let c := s.cfg
    let r0 := s.getX rs1
    let r1 := s.getX (rs1 + 1)
    let bqSlot := fun (kind : FilterKind) (f q : F64) (b : Biquad) =>
      let k := bqStrategy c kind f q sr
      ({ b with b0 := k.b0, b1 := k.b1, b2 := k.b2, a1 := k.a1, a2 := k.a2 } : Biquad)
    let svfSlot := fun (kind : FilterKind) (f q gain : F64) (u : Svf) =>
      let k := svfStrategy c kind f q sr gain
      ({ u with a1 := k.a1, a2 := k.a2, a3 := k.a3, m0 := k.m0, m1 := k.m1, m2 := k.m2, f := f, q := q, sr := sr,
                kind := kind } : Svf)
    let put := fun (b : SplBody) => ({ s with spl := bankSet s.spl inst (some ⟨r0, sr, b⟩), rc := .ok } : State)
    let lp := bqSlot .lp
    let hp := bqSlot .hp
    exec (.splSetf inst rs1) s = .next (put (match body with
      | .b2x24 s0 s1 s2 s3 =>
          .b2x24 (lp r0 Const.qButter s0) (lp r0 Const.qButter s1) (hp r0 Const.qButter s2) (hp r0 Const.qButter s3)
      | .b2x12 s0 s1 => .b2x12 (svfSlot .lp r0 c.qLr2 Const.one s0) (svfSlot .hp r0 c.qLr2 Const.one s1)
      | .b3x12 _ s0 s1 s2 s3 s4 =>
          .b3x12 r1 (svfSlot .lp r0 c.qLr2 Const.one s0) (svfSlot .hp r0 c.qLr2 Const.one s1)
            (svfSlot .ap r1 c.qAp12 Const.one s2) (svfSlot .lp r1 c.qLr2 Const.one s3)
            (svfSlot .hp r1 c.qLr2 Const.one s4)
      | .b3x24 _ s0 s1 s2 s3 s4 s5 s6 s7 s8 =>
          .b3x24 r1 (lp r0 Const.qButter s0) (lp r0 Const.qButter s1) (hp r0 Const.qButter s2) (hp r0 Const.qButter s3)
            (bqSlot .ap r1 c.qAp24 s4) (lp r1 Const.qButter s5) (lp r1 Const.qButter s6) (hp r1 Const.qButter s7)
            (hp r1 Const.qButter s8)
      | .dyn3 _ s0 s1 =>
          .dyn3 r1 (svfSlot .ls r0 c.qShelf s0.gain s0) (svfSlot .hs r1 c.qShelf s1.gain s1)))

/-- 43_splitter R158, R160 to R164: the bands of `SPL.SPLIT` on each isolating topology, low first, each slot advanced by
the stand-alone step. -/
def Obligations.SplitterSplits : Prop :=
  ∀ (s : State) (inst : Idx) (rd rs1 : Reg) (f1 sr : F64) (body : SplBody), s.Running → inst.toNat < s.cfg.nSpl →
    bankGet s.spl inst = some ⟨f1, sr, body⟩ →
    let A := s.fp
    let x := s.getX rs1
    let inv := fun v => if s.cfg.spl324Invert = true then neg v else v
    let put := fun (b : SplBody) (regs : Bank U64) =>
      ({ s with spl := bankSet s.spl inst (some ⟨f1, sr, b⟩), x := regs, rc := .ok } : State)
    let two := fun (low high : F64) => bankSet (bankSet s.x rd low) (rd + 1) high
    let three := fun (low mid high : F64) => bankSet (bankSet (bankSet s.x rd low) (rd + 1) mid) (rd + 2) high
    match body with
    | .b2x24 s0 s1 s2 s3 =>
        let (u0, t0) := bqStep A s0 x
        let (low, t1) := bqStep A s1 u0
        let (u2, t2) := bqStep A s2 x
        let (high, t3) := bqStep A s3 u2
        exec (.splSplit inst rd rs1) s = .next (put (.b2x24 t0 t1 t2 t3) (two low high))
    | .b2x12 s0 s1 =>
        let (low, t0) := svfStep A s0 x
        let (high, t1) := svfStep A s1 x
        exec (.splSplit inst rd rs1) s = .next (put (.b2x12 t0 t1) (two low (neg high)))
    | .b3x12 f2 s0 s1 s2 s3 s4 =>
        let (l1, t0) := svfStep A s0 x
        let (p1, t1) := svfStep A s1 x
        let (low, t2) := svfStep A s2 l1
        let (mid, t3) := svfStep A s3 (neg p1)
        let (high, t4) := svfStep A s4 (neg p1)
        exec (.splSplit inst rd rs1) s = .next (put (.b3x12 f2 t0 t1 t2 t3 t4) (three low mid (neg high)))
    | .b3x24 f2 s0 s1 s2 s3 s4 s5 s6 s7 s8 =>
        let (u0, t0) := bqStep A s0 x
        let (l1, t1) := bqStep A s1 u0
        let (u2, t2) := bqStep A s2 x
        let (h1, t3) := bqStep A s3 u2
        let (low, t4) := bqStep A s4 l1
        let (u5, t5) := bqStep A s5 (inv h1)
        let (mid, t6) := bqStep A s6 u5
        let (u7, t7) := bqStep A s7 (inv h1)
        let (high, t8) := bqStep A s8 u7
        exec (.splSplit inst rd rs1) s = .next (put (.b3x24 f2 t0 t1 t2 t3 t4 t5 t6 t7 t8) (three low mid (inv high)))
    | .dyn3 .. =>
        exec (.splSplit inst rd rs1) s = .next { s with
          faulted := true, cause := some .topology, faultCmd := encode (.splSplit inst rd rs1), faultInfo := 0 }

/-- 43_splitter R170 to R172: `SPL.GAIN` sets both shelf gains, recomputes both shelves, filters in series and scales by
the mid gain; on an isolating topology it raises `TOPOLOGY`. -/
def Obligations.SplitterGain : Prop :=
  ∀ (s : State) (inst : Idx) (rd rs1 rs2 : Reg) (f1 sr : F64) (body : SplBody), s.Running → inst.toNat < s.cfg.nSpl →
    bankGet s.spl inst = some ⟨f1, sr, body⟩ →
    let A := s.fp
    let gm := s.getX (rs2 + 1)
    let toDb := fun r => A.mul Const.twenty (log10F A r)
    let shelf := fun g =>
      powF A Const.ten (A.div (clamp (A.sub (toDb g) (toDb gm)) Const.negShelfDbClamp Const.shelfDbClamp) Const.twenty)
    let slot := fun (kind : FilterKind) (f g : F64) (u : Svf) =>
      let k := svfStrategy s.cfg kind f s.cfg.qShelf sr g
      ({ u with a1 := k.a1, a2 := k.a2, a3 := k.a3, m0 := k.m0, m1 := k.m1, m2 := k.m2, f := f, q := s.cfg.qShelf,
                sr := sr, gain := g, kind := kind } : Svf)
    match body with
    | .dyn3 f2 s0 s1 =>
        let (t, u0) := svfStep A (slot .ls f1 (shelf (s.getX rs2)) s0) (s.getX rs1)
        let (u, u1) := svfStep A (slot .hs f2 (shelf (s.getX (rs2 + 2))) s1) t
        exec (.splGain inst rd rs1 rs2) s = .next { s with
          spl := bankSet s.spl inst (some ⟨f1, sr, .dyn3 f2 u0 u1⟩), x := bankSet s.x rd (A.mul gm u), rc := .ok }
    | .b2x24 .. | .b2x12 .. | .b3x12 .. | .b3x24 .. =>
        exec (.splGain inst rd rs1 rs2) s = .next { s with
          faulted := true, cause := some .topology, faultCmd := encode (.splGain inst rd rs1 rs2), faultInfo := 0 }

/-- 43_splitter R175: `SPL.RD` reads the configuration or a slot element, or ends with `INDEX` and no register written. -/
def Obligations.SplitterRead : Prop :=
  ∀ (s : State) (inst : Idx) (rd : Reg) (p : Splitter), s.Running → inst.toNat < s.cfg.nSpl →
    bankGet s.spl inst = some p →
    let gives := fun (slot field : BitVec 4) (v : U64) =>
      exec (.splRd inst rd slot field) s = .next { s with x := bankSet s.x rd v, rc := .ok }
    let index := fun (slot field : BitVec 4) => exec (.splRd inst rd slot field) s = .next { s with rc := .index }
    gives 15 0 (match p.body with | .b2x24 .. => 0 | .b2x12 .. => 1 | .b3x12 .. => 2 | .b3x24 .. => 3 | .dyn3 .. => 4) ∧
    gives 15 1 p.f1 ∧
    (match p.body with
      | .b2x24 .. | .b2x12 .. => index 15 2
      | .b3x12 f2 .. | .b3x24 f2 .. | .dyn3 f2 .. => gives 15 2 f2) ∧
    gives 15 3 p.sr ∧
    ∀ slot field : BitVec 4, slot.toNat ≤ 8 → field.toNat ≤ 12 →
      (∀ b, p.body.slots[slot.toNat]? = some (.bq b) →
        (∀ e : BqField, e.imm.toNat = field.toNat → gives slot field (b.read e)) ∧
        (8 < field.toNat → index slot field)) ∧
      (∀ u, p.body.slots[slot.toNat]? = some (.svf u) →
        ∀ e : SvfField, e.imm.toNat = field.toNat → gives slot field (u.read e)) ∧
      (p.body.slots[slot.toNat]? = none → index slot field)

/-- 43_splitter R171: three equal finite positive gains give both shelves the gain 1.0 exactly, where the corner cases of the
elementary functions are fixed (`cfg.elementary`, log entry 3). With no more of the logarithm than 00_scope R13 names: so for
the gain 1.0 and for a gain that is finite in decibels, and both gains are 1.0 or both a NaN in any case. -/
def Obligations.EqualGainsGiveUnityShelves : Prop :=
  ∀ (s : State) (inst : Idx) (rd rs1 rs2 : Reg) (f1 sr f2 g : F64) (s0 s1 : Svf), s.Running → inst.toNat < s.cfg.nSpl →
    bankGet s.spl inst = some ⟨f1, sr, .dyn3 f2 s0 s1⟩ →
    s.getX rs2 = g → s.getX (rs2 + 1) = g → s.getX (rs2 + 2) = g → isFinite g = true → gt g Const.zero = true →
    ∃ t u0 u1, exec (.splGain inst rd rs1 rs2) s = .next t ∧
      bankGet t.spl inst = some ⟨f1, sr, .dyn3 f2 u0 u1⟩ ∧
      (s.cfg.elementary = .regular ∨ g = Const.one ∨ isFinite (s.fp.mul Const.twenty (log10F s.fp g)) = true →
        u0.gain = Const.one ∧ u1.gain = Const.one) ∧
      ((u0.gain = Const.one ∧ u1.gain = Const.one) ∨ (isNaN u0.gain = true ∧ isNaN u1.gain = true))

/-- 42_coefficients R144, R149, with `cfg.elementary` regular (log entry 3): a sample rate of zero makes the feedback
coefficients of every default SVF strategy, and all five of every default biquad strategy, NaN; a frequency of zero of either
sign, at a finite sample rate without flushing, gives the biquad low-pass b0 = b1 = b2 = 0, a1 = -2, a2 = 1. 43_splitter R171,
with `cfg.nanShelf` at its default (log entry 14) and the default strategies: a NaN gain makes all six coefficients of either
shelf of a splitter NaN. Both parameters are the model's choice. -/
def Obligations.FilterCornerCases : Prop :=
  (∀ (c : Cfg) (f q sr gain : F64), c.elementary = .regular → isZero sr = true →
    (c.svfStrategies = .default → ∀ kind : FilterKind,
      isNaN (svfStrategy c kind f q sr gain).a1 = true ∧ isNaN (svfStrategy c kind f q sr gain).a2 = true ∧
      isNaN (svfStrategy c kind f q sr gain).a3 = true) ∧
    (c.bqStrategies = .default → ∀ kind : FilterKind, kind.forBiquad = true →
      let k := bqStrategy c kind f q sr
      isNaN k.b0 = true ∧ isNaN k.b1 = true ∧ isNaN k.b2 = true ∧ isNaN k.a1 = true ∧ isNaN k.a2 = true)) ∧
  (∀ (c : Cfg) (f q sr : F64), c.elementary = .regular → c.bqStrategies = .default → c.ftz = false → isZero f = true →
    isFinite sr = true → isZero sr = false → isNaN q = false → isZero q = false →
    bqStrategy c .lp f q sr = ⟨Const.zero, Const.zero, Const.zero, Const.negTwo, Const.one⟩) ∧
  (∀ (c : Cfg) (f sr : F64) (u : Svf), c.nanShelf = .everyCoefficient → c.svfStrategies = .default →
    isNaN u.gain = true →
    let allNaN := fun (v : Svf) => isNaN v.a1 = true ∧ isNaN v.a2 = true ∧ isNaN v.a3 = true ∧ isNaN v.m0 = true ∧
      isNaN v.m1 = true ∧ isNaN v.m2 = true
    allNaN (shelfLo c f sr u) ∧ allNaN (shelfHi c f sr u))

/-! ## Envelope -/

/-- 44_envelope R182: `ENV.INIT` multiplies the durations by the sample rate and fills the counters; a selector of a pattern
that does not exist raises `BAD_INSTANCE`. -/
def Obligations.EnvelopeConstruction : Prop :=
  ∀ (s : State) (inst : Idx) (rs1 : Reg) (acurve rcurve : CurveSel), s.Running → inst.toNat < s.cfg.nEnv →
    let sr := s.getX (rs1 + 3)
    let d := s.fp.mul (s.getX rs1) sr
    let a := s.fp.mul (s.getX (rs1 + 1)) sr
    let r := s.fp.mul (s.getX (rs1 + 2)) sr
    ((∀ k, acurve = .pat k ∨ rcurve = .pat k → k.toNat < s.cfg.nPat) →
      exec (.envInit inst rs1 acurve rcurve) s = .next { s with
        env := bankSet s.env inst (some
          { delay := d, attack := a, release := r, delayRem := d, attackRem := a, releaseRem := r, acurve := acurve,
            rcurve := rcurve }),
        rc := .ok }) ∧
    (∀ k, acurve = .pat k ∨ rcurve = .pat k → s.cfg.nPat ≤ k.toNat →
      exec (.envInit inst rs1 acurve rcurve) s = .next { s with
        faulted := true, cause := some .badInstance, faultCmd := encode (.envInit inst rs1 acurve rcurve),
        faultInfo := 0 })

/-- 44_envelope R184, R185, 10_state R50: `ENV.TICK` in each phase: the phase of the first counter above zero, its value from
the counter before the decrement, exactly one counter less 1.0; a curve's fault before anything is written; `NOVALUE` with
no register written when no counter is above zero. -/
def Obligations.EnvelopeTick : Prop :=
  ∀ (s : State) (inst : Idx) (rd : Reg) (e : Envelope), s.Running → inst.toNat < s.cfg.nEnv →
    bankGet s.env inst = some e →
    let A := s.fp
    let pa := A.sub Const.one (A.div e.attackRem e.attack)
    let pr := A.sub Const.one (A.div e.releaseRem e.release)
    let inDelay := gt e.delayRem Const.zero = true
    let inAttack := gt e.attackRem Const.zero = true
    let inRelease := gt e.releaseRem Const.zero = true
    let faulted := fun (c : FaultCause) (info : Word32) =>
      ({ s with faulted := true, cause := some c, faultCmd := encode (.envTick inst rd), faultInfo := info } : State)
    (inDelay → exec (.envTick inst rd) s = .next { s with
      env := bankSet s.env inst (some { e with delayRem := A.sub e.delayRem Const.one }),
      x := bankSet s.x rd Const.zero, rc := .ok }) ∧
    (¬ inDelay → inAttack → ∀ v, applyCurve s e.acurve pa = .ok v → exec (.envTick inst rd) s = .next { s with
      env := bankSet s.env inst (some { e with attackRem := A.sub e.attackRem Const.one }),
      x := bankSet s.x rd v, rc := .ok }) ∧
    (¬ inDelay → inAttack → ∀ c info, applyCurve s e.acurve pa = .error (c, info) →
      exec (.envTick inst rd) s = .next (faulted c info)) ∧
    (¬ inDelay → ¬ inAttack → inRelease → ∀ v, applyCurve s e.rcurve pr = .ok v →
      exec (.envTick inst rd) s = .next { s with
        env := bankSet s.env inst (some { e with releaseRem := A.sub e.releaseRem Const.one }),
        x := bankSet s.x rd (A.sub Const.one v), rc := .ok }) ∧
    (¬ inDelay → ¬ inAttack → inRelease → ∀ c info, applyCurve s e.rcurve pr = .error (c, info) →
      exec (.envTick inst rd) s = .next (faulted c info)) ∧
    (¬ inDelay → ¬ inAttack → ¬ inRelease → exec (.envTick inst rd) s = .next { s with rc := .noValue })

/-- 44_envelope R188: `ENV.SETREL` in each phase, and the document's example, release 100, counter 50, new duration 200. -/
def Obligations.EnvelopeSetRelease : Prop :=
  ∀ (s : State) (inst : Idx) (rs1 : Reg) (e : Envelope), s.Running → inst.toNat < s.cfg.nEnv →
    bankGet s.env inst = some e →
    let new := s.getX rs1
    let put := fun (f : Envelope) => ({ s with env := bankSet s.env inst (some f), rc := .ok } : State)
    (e.phase = .complete → exec (.envSetrel inst rs1) s = .next { s with rc := .ok }) ∧
    (e.phase = .delay ∨ e.phase = .attack →
      exec (.envSetrel inst rs1) s = .next (put { e with release := new, releaseRem := new })) ∧
    (e.phase = .release → feq e.releaseRem e.release = true →
      exec (.envSetrel inst rs1) s = .next (put { e with release := new, releaseRem := new })) ∧
    (e.phase = .release → feq e.releaseRem e.release = false →
      exec (.envSetrel inst rs1) s = .next (put
        { e with release := new, releaseRem := s.fp.mul e.releaseRem (s.fp.div new e.release) })) ∧
    (e.phase = .release → e.release = 0x4059000000000000#64 → e.releaseRem = 0x4049000000000000#64 →
      new = 0x4069000000000000#64 →
      exec (.envSetrel inst rs1) s = .next (put
        { e with release := 0x4069000000000000#64, releaseRem := 0x4059000000000000#64 }))

/-- 44_envelope R190 to R192: `ENV.PROG`, `ENV.DUR` and the eight elements of `ENV.RD`. -/
def Obligations.EnvelopeQueries : Prop :=
  ∀ (s : State) (inst : Idx) (rd : Reg) (e : Envelope), s.Running → inst.toNat < s.cfg.nEnv →
    bankGet s.env inst = some e →
    let A := s.fp
    let gives := fun (i : Instr) (v : U64) => exec i s = .next { s with x := bankSet s.x rd v, rc := .ok }
    gives (.envProg inst rd) (A.sub Const.one (A.div (A.add (A.add e.delayRem e.attackRem) e.releaseRem)
      (A.add (A.add e.delay e.attack) e.release))) ∧
    gives (.envDur inst rd) (A.add (A.add e.delay e.attack) e.release) ∧
    ∀ field : EnvField, gives (.envRd inst rd field) (match field with
      | .delay => e.delay | .attack => e.attack | .release => e.release
      | .delayRem => e.delayRem | .attackRem => e.attackRem | .releaseRem => e.releaseRem
      | .phase =>
          if gt e.delayRem Const.zero = true then 0 else if gt e.attackRem Const.zero = true then 1
          else if gt e.releaseRem Const.zero = true then 2 else 3
      | .curves => BitVec.ofNat 64 (e.rcurve.code.toNat * 16 + e.acurve.code.toNat))

/-- 44_envelope R186: from full counters that are whole numbers below 2^53, the first D ticks are Delay ticks, the next A
Attack, the next R Release, all with `OK` (no pattern holding an unimplemented kind, R261), and every later one answers
`NOVALUE` and changes nothing else. -/
def Obligations.EnvelopeTickCount : Prop :=
  ∀ (s : State) (inst : Idx) (rd : Reg) (e : Envelope) (D A R : Nat), s.Inv → s.Running → s.CurvesImplemented →
    inst.toNat < s.cfg.nEnv → bankGet s.env inst = some e →
    isCount e.delay D → isCount e.attack A → isCount e.release R → D < 2 ^ 53 → A < 2 ^ 53 → R < 2 ^ 53 →
    e.delayRem = e.delay → e.attackRem = e.attack → e.releaseRem = e.release →
    ∀ n : Nat, ∃ (t u : State) (f : Envelope),
      execTimes (.envTick inst rd) n s = some t ∧ exec (.envTick inst rd) t = .next u ∧
      bankGet t.env inst = some f ∧ u.faulted = false ∧
      (n < D → f.phase = .delay) ∧
      (D ≤ n → n < D + A → f.phase = .attack) ∧
      (D + A ≤ n → n < D + A + R → f.phase = .release) ∧
      (n < D + A + R → u.rc = .ok) ∧
      (D + A + R ≤ n → f.phase = .complete ∧ u = { t with rc := .noValue })

/-- 44_envelope R183, R193 (c): no command but `SRST` and `ENV.INIT` moves an envelope to an earlier phase. -/
def Obligations.PhasesOnlyGoForward : Prop :=
  ∀ (i : Instr) (s t : State) (inst : Idx) (e : Envelope), exec i s = .next t → i ≠ .srst →
    (i.op = .envInit → instOf i ≠ inst) → bankGet s.env inst = some e →
    ∃ f, bankGet t.env inst = some f ∧ e.phase.rank ≤ f.phase.rank

/-- 44_envelope R187 (without flushing): the position an attack or release tick evaluates does not fall from tick to
tick. -/
def Obligations.PositionsDoNotFall : Prop :=
  ∀ (s t : State) (inst : Idx) (rd : Reg) (e f : Envelope), s.cfg.ftz = false → exec (.envTick inst rd) s = .next t →
    bankGet s.env inst = some e → bankGet t.env inst = some f →
    (e.phase = .attack → f.phase = .attack → isFinite e.attack = true → le e.attackRem e.attack = true →
      le (s.fp.sub Const.one (s.fp.div e.attackRem e.attack)) (s.fp.sub Const.one (s.fp.div f.attackRem f.attack))
        = true) ∧
    (e.phase = .release → f.phase = .release → isFinite e.release = true → le e.releaseRem e.release = true →
      le (s.fp.sub Const.one (s.fp.div e.releaseRem e.release)) (s.fp.sub Const.one (s.fp.div f.releaseRem f.release))
        = true)

/-- 10_state R49: `ENV.TICK` leaves the totals, raises no counter, and keeps every counter at or below its total. -/
def Obligations.TicksRaiseNoCounter : Prop :=
  ∀ (s t : State) (inst : Idx) (rd : Reg) (e f : Envelope), exec (.envTick inst rd) s = .next t →
    bankGet s.env inst = some e → bankGet t.env inst = some f →
    le e.delayRem e.delay = true → le e.attackRem e.attack = true → le e.releaseRem e.release = true →
    f.delay = e.delay ∧ f.attack = e.attack ∧ f.release = e.release ∧
    le f.delayRem e.delayRem = true ∧ le f.attackRem e.attackRem = true ∧ le f.releaseRem e.releaseRem = true ∧
    le f.delayRem f.delay = true ∧ le f.attackRem f.attack = true ∧ le f.releaseRem f.release = true

/-! ## Pattern -/

/-- 45_pattern R200, R201, R208, R209: `PAT.DFLT` and `PAT.CLR`; `PAT.INV` on every point; `PAT.REV` point by point as the
rule writes it. -/
def Obligations.WholePatternCommands : Prop :=
  (∀ (s : State) (inst : Idx), s.Running → inst.toNat < s.cfg.nPat →
     exec (.patDflt inst) s = .next { s with
       pat := bankSet s.pat inst
         ⟨⟨Const.zero, Const.zero, Const.zero, .curve⟩, [], ⟨Const.one, Const.one, Const.zero, .curve⟩⟩,
       rc := .ok } ∧
     exec (.patClr inst) s = .next { s with
       pat := bankSet s.pat inst
         ⟨⟨Const.zero, Const.half, Const.zero, .curve⟩, [], ⟨Const.one, Const.half, Const.zero, .curve⟩⟩,
       rc := .ok }) ∧
  (∀ (s : State) (inst : Idx), s.Running → inst.toNat < s.cfg.nPat →
     let A := s.fp
     let p := (s.getPat inst).pts
     let n := p.length
     (∃ q : Pattern, exec (.patInv inst) s = .next { s with pat := bankSet s.pat inst q, rc := .ok } ∧
       q.pts = p.map fun a => { a with y := A.sub Const.one a.y }) ∧
     (∃ q : Pattern, exec (.patRev inst) s = .next { s with pat := bankSet s.pat inst q, rc := .ok } ∧
       q.pts.length = n ∧
       ∀ j, j < n → ∃ a b, p[n - 1 - j]? = some a ∧
         (j < n - 1 → p[n - 2 - j]? = some b) ∧ (j = n - 1 → p[n - 1]? = some b) ∧
         q.pts[j]? = some ⟨A.sub Const.one a.x, a.y, neg b.tension, b.kind⟩))

/-- 45_pattern R209: reversing twice gives back every y, tension and kind, and every x as `1 -. (1 -. x)`. -/
def Obligations.ReverseTwice : Prop :=
  ∀ (s t u : State) (inst : Idx), s.Running → inst.toNat < s.cfg.nPat →
    exec (.patRev inst) s = .next t → exec (.patRev inst) t = .next u →
    (u.getPat inst).pts =
      (s.getPat inst).pts.map fun a => { a with x := s.fp.sub Const.one (s.fp.sub Const.one a.x) }

/-- 45_pattern R210, R211, R214: `PAT.EVAL` takes the least bracketing segment and the formula of its kind; an unimplemented
kind raises `UNIMPL_CURVE`; without a bracket it raises `NO_BRACKET`. -/
def Obligations.PatternEvaluation : Prop :=
  ∀ (s : State) (inst : Idx) (rd rs1 : Reg), s.Running → inst.toNat < s.cfg.nPat →
    let p := (s.getPat inst).pts
    let x := s.getX rs1
    let brackets := fun (j : Nat) (a b : Point) =>
      p[j]? = some a ∧ p[j + 1]? = some b ∧ le a.x x = true ∧ le x b.x = true
    let gives := fun (y : F64) =>
      exec (.patEval inst rd rs1) s = .next { s with x := bankSet s.x rd y, rc := .ok }
    let faults := fun (c : FaultCause) (info : Nat) =>
      exec (.patEval inst rd rs1) s = .next { s with
        faulted := true, cause := some c, faultCmd := encode (.patEval inst rd rs1),
        faultInfo := BitVec.ofNat 32 info }
    (∀ j a b, brackets j a b → (∀ k c d, k < j → ¬ brackets k c d) →
      (a.kind = .hold → gives a.y) ∧
      (a.kind = .curve → gives (curveY s.cfg a b x)) ∧
      (a.kind = .sCurve → gives (sCurveY s.cfg a b x)) ∧
      (CurveKind.implemented a.kind = false →
        faults .unimplCurve (j % 65536 * 65536 + inst.toNat * 16 + a.kind.imm.toNat))) ∧
    ((∀ j a b, ¬ brackets j a b) → faults .noBracket (inst.toNat * 16))

/-- 44_envelope R181, 45_pattern R212, R213, R215: the two easing functions and the Curve and SCurve formulas, operator by
operator, and a pattern selector as the evaluation of that pattern as it is. -/
def Obligations.CurveFormulas : Prop :=
  (∀ (s : State) (p : F64),
     applyCurve s .sine p = .ok (s.fp.sub Const.one (cosF s.fp (s.fp.div (s.fp.mul p Const.pi) Const.two))) ∧
     applyCurve s .ioSine p =
       .ok (s.fp.div (neg (s.fp.sub (cosF s.fp (s.fp.mul Const.pi p)) Const.one)) Const.two) ∧
     ∀ k : BitVec 3, k.toNat < s.cfg.nPat →
       applyCurve s (.pat k) p = patEval s.cfg (k.setWidth 4) (s.getPat (k.setWidth 4)) p) ∧
  (∀ (c : Cfg) (p1 p2 : Point) (x : F64),
     let A := fpOf c
     let t50 := Machine.abs (A.mul p1.tension Const.tensionScale)
     let pwr := match c.curvePwr with | .fix => powF A Const.tensionExp t50 | .doc => powF A t50 Const.tensionExp
     let rise := fun t dy y => A.add (A.mul (powF A t pwr) dy) y
     let fall := fun t dy y => A.add (A.mul (neg (A.sub (powF A (A.sub Const.one t) pwr) Const.one)) dy) y
     let up := ge p1.tension Const.zero
     let xx := A.div (A.add p2.x p1.x) Const.two
     let yy := A.div (A.add p2.y p1.y) Const.two
     let t := A.div (A.sub x p1.x) (A.sub p2.x p1.x)
     let t1 := A.div (A.sub x p1.x) (A.sub xx p1.x)
     let t2 := A.div (A.sub x xx) (A.sub p2.x xx)
     (feq p1.x p2.x = true → curveY c p1 p2 x = p2.y ∧ sCurveY c p1 p2 x = p2.y) ∧
     (feq p1.x p2.x = false →
       curveY c p1 p2 x = (if up then rise t (A.sub p2.y p1.y) p1.y else fall t (A.sub p2.y p1.y) p1.y) ∧
       sCurveY c p1 p2 x =
         if lt x xx then (if up then rise t1 (A.sub yy p1.y) p1.y else fall t1 (A.sub yy p1.y) p1.y)
         else (if up then fall t2 (A.sub p2.y yy) yy else rise t2 (A.sub p2.y yy) yy)))

/-- 45_pattern R210: on a machine that meets the invariant, `PAT.EVAL` raises `NO_BRACKET` exactly for an x outside [0,1],
a NaN included. -/
def Obligations.UnitIntervalIsBracketed : Prop :=
  ∀ (s : State) (inst : Idx) (rd rs1 : Reg), s.Inv → s.Running → inst.toNat < s.cfg.nPat →
    ((∃ t, exec (.patEval inst rd rs1) s = .next t ∧ t.cause = some .noBracket) ↔
      ¬ (le Const.zero (s.getX rs1) = true ∧ le (s.getX rs1) Const.one = true))

/-- 45_pattern R216: the default pattern under `PWR_FIX`, without flushing, evaluates to x on [0,1]. -/
def Obligations.DefaultPatternIsTheIdentity : Prop :=
  ∀ (s : State) (inst : Idx) (rd rs1 : Reg), s.Running → inst.toNat < s.cfg.nPat → s.getPat inst = Pattern.default →
    s.cfg.curvePwr = .fix → s.cfg.ftz = false →
    le Const.zero (s.getX rs1) = true → le (s.getX rs1) Const.one = true →
    ∃ y, exec (.patEval inst rd rs1) s = .next { s with x := bankSet s.x rd y, rc := .ok } ∧
      feq y (s.getX rs1) = true ∧ (s.getX rs1 ≠ 0x8000000000000000#64 → y = s.getX rs1)

/-- 45_pattern R203, R204: `PAT.INS` validates, then checks the capacity, then inserts after the interior points whose x is
at or below the new x. -/
def Obligations.PatternInsertion : Prop :=
  ∀ (s : State) (inst : Idx) (rs1 : Reg) (kind : CurveKind), s.Running → inst.toNat < s.cfg.nPat →
    let p := s.getPat inst
    let x := s.getX rs1
    let y := s.getX (rs1 + 1)
    let t := s.getX (rs1 + 2)
    let valid := le Const.zero x = true ∧ le x Const.one = true ∧ le Const.zero y = true ∧ le y Const.one = true ∧
      le Const.negOne t = true ∧ le t Const.one = true
    let k := 1 + p.mid.countP (fun q => le q.x x)
    (¬ valid → exec (.patIns inst rs1 kind) s = .next { s with rc := .badPoint }) ∧
    (valid → p.pts.length = s.cfg.patMaxPts → exec (.patIns inst rs1 kind) s = .next { s with rc := .full }) ∧
    (valid → p.pts.length ≠ s.cfg.patMaxPts →
      ∃ q : Pattern, exec (.patIns inst rs1 kind) s = .next { s with pat := bankSet s.pat inst q, rc := .ok } ∧
        q.pts = p.pts.take k ++ ⟨x, y, t, kind⟩ :: p.pts.drop k)

/-- 45_pattern R205 to R207: `PAT.RM`, `PAT.RMPOS` and `PAT.RMRNG`: the boundary points are never removed. -/
def Obligations.PatternRemoval : Prop :=
  ∀ (s : State) (inst : Idx) (rd rs1 : Reg), s.Running → inst.toNat < s.cfg.nPat →
    let p := s.getPat inst
    let n := p.pts.length
    let i := (s.getX rs1).toNat
    let x := s.getX rs1
    let y := s.getX (rs1 + 1)
    let gone := fun (a : Point) => le x a.x && le a.x y
    (i = 0 ∨ i = n - 1 → exec (.patRm inst rs1) s = .next { s with rc := .boundary }) ∧
    (n ≤ i → exec (.patRm inst rs1) s = .next { s with rc := .index }) ∧
    (0 < i → i < n - 1 →
      ∃ q : Pattern, exec (.patRm inst rs1) s = .next { s with pat := bankSet s.pat inst q, rc := .ok } ∧
        q.pts = p.pts.eraseIdx i) ∧
    ((∀ a ∈ p.mid, ¬ (feq a.x x = true ∧ feq a.y y = true)) →
      exec (.patRmpos inst rd rs1) s = .next { s with x := bankSet s.x rd 0, rc := .ok }) ∧
    (∀ j a, p.mid[j]? = some a → feq a.x x = true → feq a.y y = true →
      (∀ k b, k < j → p.mid[k]? = some b → ¬ (feq b.x x = true ∧ feq b.y y = true)) →
      ∃ q : Pattern, exec (.patRmpos inst rd rs1) s = .next { s with
          pat := bankSet s.pat inst q, x := bankSet s.x rd 1, rc := .ok } ∧
        q.pts = p.pts.eraseIdx (j + 1)) ∧
    exec (.patRmrng inst rd rs1) s = .next { s with
      pat := bankSet s.pat inst ⟨p.first, p.mid.filter (fun a => !gone a), p.last⟩,
      x := bankSet s.x rd (BitVec.ofNat 64 (p.mid.countP gone)), rc := .ok }

/-- 45_pattern R228, R229: `PAT.RDPT` and `PAT.LEN`. -/
def Obligations.PatternRead : Prop :=
  ∀ (s : State) (inst : Idx) (rd rs1 : Reg), s.Running → inst.toNat < s.cfg.nPat →
    let p := (s.getPat inst).pts
    let i := (s.getX rs1).toNat
    (∀ a, p[i]? = some a → exec (.patRdpt inst rd rs1) s = .next { s with
      x := bankSet (bankSet (bankSet (bankSet s.x rd a.x) (rd + 1) a.y) (rd + 2) a.tension) (rd + 3)
        (match a.kind with
          | .hold => 0 | .curve => 1 | .sCurve => 2 | .pulse => 3 | .wave => 4 | .triangle => 5 | .stairs => 6
          | .smoothStairs => 7),
      rc := .ok }) ∧
    (p.length ≤ i → exec (.patRdpt inst rd rs1) s = .next { s with rc := .index }) ∧
    exec (.patLen inst rd) s = .next { s with x := bankSet s.x rd (BitVec.ofNat 64 p.length), rc := .ok }

/-- 45_pattern R225, R226: `PAT.SCLR` empties the staging buffer; `PAT.SPUSH` validates, checks the capacity, appends. -/
def Obligations.StagingBuffer : Prop :=
  ∀ (s : State) (rs1 : Reg) (kind : CurveKind), s.Running →
    let x := s.getX rs1
    let y := s.getX (rs1 + 1)
    let t := s.getX (rs1 + 2)
    let valid := le Const.zero x = true ∧ le x Const.one = true ∧ le Const.zero y = true ∧ le y Const.one = true ∧
      le Const.negOne t = true ∧ le t Const.one = true
    exec .patSclr s = .next { s with stg := [], rc := .ok } ∧
    (¬ valid → exec (.patSpush rs1 kind) s = .next { s with rc := .badPoint }) ∧
    (valid → s.stg.length = s.cfg.patMaxPts → exec (.patSpush rs1 kind) s = .next { s with rc := .full }) ∧
    (valid → s.stg.length ≠ s.cfg.patMaxPts →
      exec (.patSpush rs1 kind) s = .next { s with stg := s.stg ++ [⟨x, y, t, kind⟩], rc := .ok })

/-- 45_pattern R227: `PAT.SCOMMIT` builds the pattern exactly if there are two points or more, the first x is 0, the last x
is 1 and no x falls; otherwise `BAD_PATTERN`; the staging buffer stays. -/
def Obligations.PatternCommit : Prop :=
  ∀ (s : State) (inst : Idx), s.Running → inst.toNat < s.cfg.nPat →
    let m := s.stg.length
    let good := 2 ≤ m ∧
      (∃ a, s.stg[0]? = some a ∧ feq a.x Const.zero = true) ∧
      (∃ a, s.stg[m - 1]? = some a ∧ feq a.x Const.one = true) ∧
      ∀ j a b, s.stg[j]? = some a → s.stg[j + 1]? = some b → le a.x b.x = true
    (good → ∃ q : Pattern,
      exec (.patScommit inst) s = .next { s with pat := bankSet s.pat inst q, rc := .ok } ∧ q.pts = s.stg) ∧
    (¬ good → exec (.patScommit inst) s = .next { s with rc := .badPattern })
end

