-- ==== Sys2Proof/Laws/Decode.lean ====
section
/-! SUPPORT. The lemmas of the encoding: the fields of a packed word, the mask of each format, the opcode map and the
selector tables as inverses. -/

namespace Sys2Proof

section packWord
variable (o : BitVec 8) (i : Idx) (d a b : Reg) (m : BitVec 8)

@[simp] theorem fieldOpcode_packWord : fieldOpcode (packWord o i d a b m) = o := by
  apply BitVec.eq_of_getLsbD_eq
  intro k hk
  simp only [fieldOpcode, packWord, BitVec.getLsbD_extractLsb', BitVec.getLsbD_append]
  interval_cases k <;> simp

@[simp] theorem fieldInst_packWord : fieldInst (packWord o i d a b m) = i := by
  apply BitVec.eq_of_getLsbD_eq
  intro k hk
  simp only [fieldInst, packWord, BitVec.getLsbD_extractLsb', BitVec.getLsbD_append]
  interval_cases k <;> simp

@[simp] theorem fieldRd_packWord : fieldRd (packWord o i d a b m) = d := by
  apply BitVec.eq_of_getLsbD_eq
  intro k hk
  simp only [fieldRd, packWord, BitVec.getLsbD_extractLsb', BitVec.getLsbD_append]
  interval_cases k <;> simp

@[simp] theorem fieldRs1_packWord : fieldRs1 (packWord o i d a b m) = a := by
  apply BitVec.eq_of_getLsbD_eq
  intro k hk
  simp only [fieldRs1, packWord, BitVec.getLsbD_extractLsb', BitVec.getLsbD_append]
  interval_cases k <;> simp

@[simp] theorem fieldRs2_packWord : fieldRs2 (packWord o i d a b m) = b := by
  apply BitVec.eq_of_getLsbD_eq
  intro k hk
  simp only [fieldRs2, packWord, BitVec.getLsbD_extractLsb', BitVec.getLsbD_append]
  interval_cases k <;> simp

@[simp] theorem fieldImm_packWord : fieldImm (packWord o i d a b m) = m := by
  apply BitVec.eq_of_getLsbD_eq
  intro k hk
  simp only [fieldImm, packWord, BitVec.getLsbD_extractLsb', BitVec.getLsbD_append]
  interval_cases k <;> simp

/-! What a format's mask keeps of a packed word (30_encoding R92). -/

theorem mask_z_packWord : packWord o i d a b m &&& Format.mask .z = packWord o i d a b m := by
  apply BitVec.eq_of_getLsbD_eq
  intro k hk
  simp only [packWord, Format.mask, BitVec.getLsbD_and, BitVec.getLsbD_append]
  interval_cases k <;> simp

theorem mask_i_packWord : packWord o i d a b m &&& Format.mask .i = packWord o 0 d a b m := by
  apply BitVec.eq_of_getLsbD_eq
  intro k hk
  simp only [packWord, Format.mask, BitVec.getLsbD_and, BitVec.getLsbD_append]
  interval_cases k <;> simp

theorem mask_id_packWord : packWord o i d a b m &&& Format.mask .id = packWord o 0 0 a b m := by
  apply BitVec.eq_of_getLsbD_eq
  intro k hk
  simp only [packWord, Format.mask, BitVec.getLsbD_and, BitVec.getLsbD_append]
  interval_cases k <;> simp

theorem mask_is_packWord : packWord o i d a b m &&& Format.mask .is = packWord o 0 d 0 b m := by
  apply BitVec.eq_of_getLsbD_eq
  intro k hk
  simp only [packWord, Format.mask, BitVec.getLsbD_and, BitVec.getLsbD_append]
  interval_cases k <;> simp

theorem mask_ids_packWord : packWord o i d a b m &&& Format.mask .ids = packWord o 0 0 0 b m := by
  apply BitVec.eq_of_getLsbD_eq
  intro k hk
  simp only [packWord, Format.mask, BitVec.getLsbD_and, BitVec.getLsbD_append]
  interval_cases k <;> simp

theorem mask_idss_packWord : packWord o i d a b m &&& Format.mask .idss = packWord o 0 0 0 0 m := by
  apply BitVec.eq_of_getLsbD_eq
  intro k hk
  simp only [packWord, Format.mask, BitVec.getLsbD_and, BitVec.getLsbD_append]
  interval_cases k <;> simp

theorem mask_ism_packWord : packWord o i d a b m &&& Format.mask .ism = packWord o 0 d 0 b 0 := by
  apply BitVec.eq_of_getLsbD_eq
  intro k hk
  simp only [packWord, Format.mask, BitVec.getLsbD_and, BitVec.getLsbD_append]
  interval_cases k <;> simp

theorem mask_idm_packWord : packWord o i d a b m &&& Format.mask .idm = packWord o 0 0 a b 0 := by
  apply BitVec.eq_of_getLsbD_eq
  intro k hk
  simp only [packWord, Format.mask, BitVec.getLsbD_and, BitVec.getLsbD_append]
  interval_cases k <;> simp

theorem mask_sm_packWord : packWord o i d a b m &&& Format.mask .sm = packWord o i d 0 b 0 := by
  apply BitVec.eq_of_getLsbD_eq
  intro k hk
  simp only [packWord, Format.mask, BitVec.getLsbD_and, BitVec.getLsbD_append]
  interval_cases k <;> simp

end packWord

/-- A word is the packing of its fields. -/
theorem packWord_fields (w : Word32) :
    packWord (fieldOpcode w) (fieldInst w) (fieldRd w) (fieldRs1 w) (fieldRs2 w) (fieldImm w) = w := by
  apply BitVec.eq_of_getLsbD_eq
  intro k hk
  simp only [fieldOpcode, fieldInst, fieldRd, fieldRs1, fieldRs2, fieldImm, packWord, BitVec.getLsbD_append,
    BitVec.getLsbD_extractLsb']
  interval_cases k <;> simp

/-- A packing determines its fields. -/
theorem packWord_inj {o o' : BitVec 8} {i i' : Idx} {d d' a a' b b' : Reg} {m m' : BitVec 8}
    (h : packWord o i d a b m = packWord o' i' d' a' b' m') :
    o = o' ∧ i = i' ∧ d = d' ∧ a = a' ∧ b = b' ∧ m = m' :=
  ⟨by simpa using congrArg fieldOpcode h, by simpa using congrArg fieldInst h, by simpa using congrArg fieldRd h,
    by simpa using congrArg fieldRs1 h, by simpa using congrArg fieldRs2 h, by simpa using congrArg fieldImm h⟩

/-! ## The opcode map -/

@[simp] theorem opOfCode_code (o : Op) : opOfCode o.code = some o := by cases o <;> decide

/-- A row found for an opcode has that opcode. -/
theorem code_of_opOfCode {b : BitVec 8} {o : Op} (h : opOfCode b = some o) : o.code = b := by
  simpa using List.find?_some h

theorem mem_Op_all (o : Op) : o ∈ Op.all := by cases o <;> decide

/-- No row has an opcode the map does not find. -/
theorem opOfCode_eq_none {b : BitVec 8} : opOfCode b = none ↔ ∀ o : Op, o.code ≠ b := by
  simp only [opOfCode, List.find?_eq_none, beq_iff_eq]
  exact ⟨fun h o => h o (mem_Op_all o), fun h o _ => h o⟩

/-! ## Selector tables -/

@[simp] theorem FilterKind.ofImm_imm (k : FilterKind) : FilterKind.ofImm k.imm = some k := by cases k <;> decide

theorem FilterKind.imm_of_ofImm {b : BitVec 8} {k : FilterKind} (h : FilterKind.ofImm b = some k) : k.imm = b := by
  simpa using List.find?_some h

@[simp] theorem Topo.ofImm_imm (k : Topo) : Topo.ofImm k.imm = some k := by cases k <;> decide

theorem Topo.imm_of_ofImm {b : BitVec 8} {k : Topo} (h : Topo.ofImm b = some k) : k.imm = b := by
  simpa using List.find?_some h

@[simp] theorem CurveKind.ofImm_imm (k : CurveKind) : CurveKind.ofImm k.imm = some k := by cases k <;> decide

theorem CurveKind.imm_of_ofImm {b : BitVec 8} {k : CurveKind} (h : CurveKind.ofImm b = some k) : k.imm = b := by
  simpa using List.find?_some h

@[simp] theorem BqField.ofImm_imm (k : BqField) : BqField.ofImm k.imm = some k := by cases k <;> decide

theorem BqField.imm_of_ofImm {b : BitVec 8} {k : BqField} (h : BqField.ofImm b = some k) : k.imm = b := by
  simpa using List.find?_some h

@[simp] theorem SvfField.ofImm_imm (k : SvfField) : SvfField.ofImm k.imm = some k := by cases k <;> decide

theorem SvfField.imm_of_ofImm {b : BitVec 8} {k : SvfField} (h : SvfField.ofImm b = some k) : k.imm = b := by
  simpa using List.find?_some h

@[simp] theorem EnvField.ofImm_imm (k : EnvField) : EnvField.ofImm k.imm = some k := by cases k <;> decide

theorem EnvField.imm_of_ofImm {b : BitVec 8} {k : EnvField} (h : EnvField.ofImm b = some k) : k.imm = b := by
  simpa using List.find?_some h

@[simp] theorem CurveSel.ofCode_code (c : CurveSel) : CurveSel.ofCode c.code = some c := by
  cases c with
  | sine => decide
  | ioSine => decide
  | pat k => revert k; decide

theorem CurveSel.code_of_ofCode {b : BitVec 4} {c : CurveSel} (h : CurveSel.ofCode b = some c) : c.code = b := by
  revert h
  revert b
  cases c with
  | sine => decide
  | ioSine => decide
  | pat k => revert k; decide

/-- The low and the high four bits of an appended selector (43_splitter R175). -/
@[simp] theorem nibbles_low (h l : BitVec 4) : (h ++ l).extractLsb' 0 4 = l := by
  apply BitVec.eq_of_getLsbD_eq
  intro k hk
  simp only [BitVec.getLsbD_extractLsb', BitVec.getLsbD_append]
  interval_cases k <;> simp

@[simp] theorem nibbles_high (h l : BitVec 4) : (h ++ l).extractLsb' 4 4 = h := by
  apply BitVec.eq_of_getLsbD_eq
  intro k hk
  simp only [BitVec.getLsbD_extractLsb', BitVec.getLsbD_append]
  interval_cases k <;> simp

@[simp] theorem curvesImm_low (a r : CurveSel) : (curvesImm a r).extractLsb' 0 4 = a.code := by
  simp only [curvesImm, nibbles_low]

@[simp] theorem curvesImm_high (a r : CurveSel) : (curvesImm a r).extractLsb' 4 4 = r.code := by
  simp only [curvesImm, nibbles_high]

end Sys2Proof
end

