-- ==== Sys2Proof/Laws/State.lean ====
section
/-! SUPPORT. The small lemmas of the state: reading a bank after a write, one lemma per field per update, and the fault and
reset operations. -/

namespace Sys2Proof.Machine

/-! ## Banks -/

@[simp] theorem bankGet_bankSet_same {α : Type} (b : Bank α) (i : BitVec 4) (a : α) :
    bankGet (bankSet b i a) i = a := by simp [bankGet, bankSet]

theorem bankGet_bankSet_other {α : Type} (b : Bank α) {i j : BitVec 4} (a : α) (h : j ≠ i) :
    bankGet (bankSet b i a) j = bankGet b j := by
  have hn : i.toNat ≠ j.toNat := fun e => h (BitVec.eq_of_toNat_eq e.symm)
  simp [bankGet, bankSet, hn]

theorem bankGet_bankSet {α : Type} (b : Bank α) (i j : BitVec 4) (a : α) :
    bankGet (bankSet b i a) j = if j = i then a else bankGet b j := by
  by_cases h : j = i
  · subst h; simp
  · simp [h, bankGet_bankSet_other b a h]

@[simp] theorem bankGet_replicate {α : Type} (a : α) (i : BitVec 4) :
    bankGet (Vector.replicate 16 a) i = a := by simp [bankGet]

/-- Two banks that agree under every number are equal. -/
theorem bank_ext {α : Type} {b c : Bank α} (h : ∀ i, bankGet b i = bankGet c i) : b = c := by
  apply Vector.ext
  intro n hn
  simpa [bankGet, Nat.mod_eq_of_lt hn] using h (BitVec.ofNat 4 n)

@[simp] theorem bankSet_get_self {α : Type} (b : Bank α) (i : BitVec 4) : bankSet b i (bankGet b i) = b :=
  bank_ext fun j => by by_cases h : j = i <;> simp [bankGet_bankSet, h]

/-! ## A predicate on every thing of a bank -/

theorem bank_all_iff {α : Type} (b : Bank α) (p : α → Bool) :
    b.toList.all p = true ↔ ∀ i, p (bankGet b i) = true := by
  rw [List.all_eq_true]
  constructor
  · intro h i
    exact h _ (by simp [bankGet])
  · intro h a ha
    obtain ⟨n, hn, rfl⟩ := List.getElem_of_mem ha
    have hn' : n < 16 := by simpa using hn
    simpa [bankGet, Nat.mod_eq_of_lt hn'] using h (BitVec.ofNat 4 n)

/-! ## One lemma per field per update -/

section setX
variable (s : State) (r : Reg) (v : U64)
@[simp] theorem State.setX_cfg : (s.setX r v).cfg = s.cfg := rfl
@[simp] theorem State.setX_x : (s.setX r v).x = bankSet s.x r v := rfl
@[simp] theorem State.setX_faulted : (s.setX r v).faulted = s.faulted := rfl
@[simp] theorem State.setX_rc : (s.setX r v).rc = s.rc := rfl
@[simp] theorem State.setX_cause : (s.setX r v).cause = s.cause := rfl
@[simp] theorem State.setX_faultCmd : (s.setX r v).faultCmd = s.faultCmd := rfl
@[simp] theorem State.setX_faultInfo : (s.setX r v).faultInfo = s.faultInfo := rfl
@[simp] theorem State.setX_bq : (s.setX r v).bq = s.bq := rfl
@[simp] theorem State.setX_svf : (s.setX r v).svf = s.svf := rfl
@[simp] theorem State.setX_spl : (s.setX r v).spl = s.spl := rfl
@[simp] theorem State.setX_env : (s.setX r v).env = s.env := rfl
@[simp] theorem State.setX_pat : (s.setX r v).pat = s.pat := rfl
@[simp] theorem State.setX_stg : (s.setX r v).stg = s.stg := rfl
@[simp] theorem State.setX_inReset : (s.setX r v).inReset = s.inReset := rfl
@[simp] theorem State.setX_host : (s.setX r v).host = s.host := rfl
@[simp] theorem State.setX_port : (s.setX r v).port = s.port := rfl
@[simp] theorem State.getX_setX_same : (s.setX r v).getX r = v := by simp [State.getX]
theorem State.getX_setX_other {r' : Reg} (h : r' ≠ r) : (s.setX r v).getX r' = s.getX r' :=
  bankGet_bankSet_other _ _ h
theorem State.getX_setX (r' : Reg) : (s.setX r v).getX r' = if r' = r then v else s.getX r' :=
  bankGet_bankSet _ _ _ _
end setX

section setBq
variable (s : State) (i : Idx) (v : Biquad)
@[simp] theorem State.setBq_cfg : (s.setBq i v).cfg = s.cfg := rfl
@[simp] theorem State.setBq_x : (s.setBq i v).x = s.x := rfl
@[simp] theorem State.setBq_faulted : (s.setBq i v).faulted = s.faulted := rfl
@[simp] theorem State.setBq_rc : (s.setBq i v).rc = s.rc := rfl
@[simp] theorem State.setBq_cause : (s.setBq i v).cause = s.cause := rfl
@[simp] theorem State.setBq_faultCmd : (s.setBq i v).faultCmd = s.faultCmd := rfl
@[simp] theorem State.setBq_faultInfo : (s.setBq i v).faultInfo = s.faultInfo := rfl
@[simp] theorem State.setBq_bq : (s.setBq i v).bq = bankSet s.bq i (some v) := rfl
@[simp] theorem State.setBq_svf : (s.setBq i v).svf = s.svf := rfl
@[simp] theorem State.setBq_spl : (s.setBq i v).spl = s.spl := rfl
@[simp] theorem State.setBq_env : (s.setBq i v).env = s.env := rfl
@[simp] theorem State.setBq_pat : (s.setBq i v).pat = s.pat := rfl
@[simp] theorem State.setBq_stg : (s.setBq i v).stg = s.stg := rfl
@[simp] theorem State.setBq_inReset : (s.setBq i v).inReset = s.inReset := rfl
@[simp] theorem State.setBq_host : (s.setBq i v).host = s.host := rfl
@[simp] theorem State.setBq_port : (s.setBq i v).port = s.port := rfl
@[simp] theorem State.setBq_getX (r : Reg) : (s.setBq i v).getX r = s.getX r := rfl
@[simp] theorem State.setBq_xr (r : Reg) (k : Nat) : (s.setBq i v).xr r k = s.xr r k := rfl
end setBq

section setSvf
variable (s : State) (i : Idx) (v : Svf)
@[simp] theorem State.setSvf_cfg : (s.setSvf i v).cfg = s.cfg := rfl
@[simp] theorem State.setSvf_x : (s.setSvf i v).x = s.x := rfl
@[simp] theorem State.setSvf_faulted : (s.setSvf i v).faulted = s.faulted := rfl
@[simp] theorem State.setSvf_rc : (s.setSvf i v).rc = s.rc := rfl
@[simp] theorem State.setSvf_cause : (s.setSvf i v).cause = s.cause := rfl
@[simp] theorem State.setSvf_faultCmd : (s.setSvf i v).faultCmd = s.faultCmd := rfl
@[simp] theorem State.setSvf_faultInfo : (s.setSvf i v).faultInfo = s.faultInfo := rfl
@[simp] theorem State.setSvf_bq : (s.setSvf i v).bq = s.bq := rfl
@[simp] theorem State.setSvf_svf : (s.setSvf i v).svf = bankSet s.svf i (some v) := rfl
@[simp] theorem State.setSvf_spl : (s.setSvf i v).spl = s.spl := rfl
@[simp] theorem State.setSvf_env : (s.setSvf i v).env = s.env := rfl
@[simp] theorem State.setSvf_pat : (s.setSvf i v).pat = s.pat := rfl
@[simp] theorem State.setSvf_stg : (s.setSvf i v).stg = s.stg := rfl
@[simp] theorem State.setSvf_inReset : (s.setSvf i v).inReset = s.inReset := rfl
@[simp] theorem State.setSvf_host : (s.setSvf i v).host = s.host := rfl
@[simp] theorem State.setSvf_port : (s.setSvf i v).port = s.port := rfl
@[simp] theorem State.setSvf_getX (r : Reg) : (s.setSvf i v).getX r = s.getX r := rfl
@[simp] theorem State.setSvf_xr (r : Reg) (k : Nat) : (s.setSvf i v).xr r k = s.xr r k := rfl
end setSvf

section setSpl
variable (s : State) (i : Idx) (v : Splitter)
@[simp] theorem State.setSpl_cfg : (s.setSpl i v).cfg = s.cfg := rfl
@[simp] theorem State.setSpl_x : (s.setSpl i v).x = s.x := rfl
@[simp] theorem State.setSpl_faulted : (s.setSpl i v).faulted = s.faulted := rfl
@[simp] theorem State.setSpl_rc : (s.setSpl i v).rc = s.rc := rfl
@[simp] theorem State.setSpl_cause : (s.setSpl i v).cause = s.cause := rfl
@[simp] theorem State.setSpl_faultCmd : (s.setSpl i v).faultCmd = s.faultCmd := rfl
@[simp] theorem State.setSpl_faultInfo : (s.setSpl i v).faultInfo = s.faultInfo := rfl
@[simp] theorem State.setSpl_bq : (s.setSpl i v).bq = s.bq := rfl
@[simp] theorem State.setSpl_svf : (s.setSpl i v).svf = s.svf := rfl
@[simp] theorem State.setSpl_spl : (s.setSpl i v).spl = bankSet s.spl i (some v) := rfl
@[simp] theorem State.setSpl_env : (s.setSpl i v).env = s.env := rfl
@[simp] theorem State.setSpl_pat : (s.setSpl i v).pat = s.pat := rfl
@[simp] theorem State.setSpl_stg : (s.setSpl i v).stg = s.stg := rfl
@[simp] theorem State.setSpl_inReset : (s.setSpl i v).inReset = s.inReset := rfl
@[simp] theorem State.setSpl_host : (s.setSpl i v).host = s.host := rfl
@[simp] theorem State.setSpl_port : (s.setSpl i v).port = s.port := rfl
@[simp] theorem State.setSpl_getX (r : Reg) : (s.setSpl i v).getX r = s.getX r := rfl
@[simp] theorem State.setSpl_xr (r : Reg) (k : Nat) : (s.setSpl i v).xr r k = s.xr r k := rfl
end setSpl

section setEnv
variable (s : State) (i : Idx) (v : Envelope)
@[simp] theorem State.setEnv_cfg : (s.setEnv i v).cfg = s.cfg := rfl
@[simp] theorem State.setEnv_x : (s.setEnv i v).x = s.x := rfl
@[simp] theorem State.setEnv_faulted : (s.setEnv i v).faulted = s.faulted := rfl
@[simp] theorem State.setEnv_rc : (s.setEnv i v).rc = s.rc := rfl
@[simp] theorem State.setEnv_cause : (s.setEnv i v).cause = s.cause := rfl
@[simp] theorem State.setEnv_faultCmd : (s.setEnv i v).faultCmd = s.faultCmd := rfl
@[simp] theorem State.setEnv_faultInfo : (s.setEnv i v).faultInfo = s.faultInfo := rfl
@[simp] theorem State.setEnv_bq : (s.setEnv i v).bq = s.bq := rfl
@[simp] theorem State.setEnv_svf : (s.setEnv i v).svf = s.svf := rfl
@[simp] theorem State.setEnv_spl : (s.setEnv i v).spl = s.spl := rfl
@[simp] theorem State.setEnv_env : (s.setEnv i v).env = bankSet s.env i (some v) := rfl
@[simp] theorem State.setEnv_pat : (s.setEnv i v).pat = s.pat := rfl
@[simp] theorem State.setEnv_stg : (s.setEnv i v).stg = s.stg := rfl
@[simp] theorem State.setEnv_inReset : (s.setEnv i v).inReset = s.inReset := rfl
@[simp] theorem State.setEnv_host : (s.setEnv i v).host = s.host := rfl
@[simp] theorem State.setEnv_port : (s.setEnv i v).port = s.port := rfl
@[simp] theorem State.setEnv_getX (r : Reg) : (s.setEnv i v).getX r = s.getX r := rfl
@[simp] theorem State.setEnv_xr (r : Reg) (k : Nat) : (s.setEnv i v).xr r k = s.xr r k := rfl
end setEnv

section setPat
variable (s : State) (i : Idx) (v : Pattern)
@[simp] theorem State.setPat_cfg : (s.setPat i v).cfg = s.cfg := rfl
@[simp] theorem State.setPat_x : (s.setPat i v).x = s.x := rfl
@[simp] theorem State.setPat_faulted : (s.setPat i v).faulted = s.faulted := rfl
@[simp] theorem State.setPat_rc : (s.setPat i v).rc = s.rc := rfl
@[simp] theorem State.setPat_cause : (s.setPat i v).cause = s.cause := rfl
@[simp] theorem State.setPat_faultCmd : (s.setPat i v).faultCmd = s.faultCmd := rfl
@[simp] theorem State.setPat_faultInfo : (s.setPat i v).faultInfo = s.faultInfo := rfl
@[simp] theorem State.setPat_bq : (s.setPat i v).bq = s.bq := rfl
@[simp] theorem State.setPat_svf : (s.setPat i v).svf = s.svf := rfl
@[simp] theorem State.setPat_spl : (s.setPat i v).spl = s.spl := rfl
@[simp] theorem State.setPat_env : (s.setPat i v).env = s.env := rfl
@[simp] theorem State.setPat_pat : (s.setPat i v).pat = bankSet s.pat i v := rfl
@[simp] theorem State.setPat_stg : (s.setPat i v).stg = s.stg := rfl
@[simp] theorem State.setPat_inReset : (s.setPat i v).inReset = s.inReset := rfl
@[simp] theorem State.setPat_host : (s.setPat i v).host = s.host := rfl
@[simp] theorem State.setPat_port : (s.setPat i v).port = s.port := rfl
@[simp] theorem State.setPat_getX (r : Reg) : (s.setPat i v).getX r = s.getX r := rfl
@[simp] theorem State.setPat_xr (r : Reg) (k : Nat) : (s.setPat i v).xr r k = s.xr r k := rfl
end setPat

section raise
variable (s : State) (c : FaultCause) (w info : Word32)
@[simp] theorem State.raise_cfg : (s.raise c w info).cfg = s.cfg := rfl
@[simp] theorem State.raise_x : (s.raise c w info).x = s.x := rfl
@[simp] theorem State.raise_faulted : (s.raise c w info).faulted = true := rfl
@[simp] theorem State.raise_rc : (s.raise c w info).rc = s.rc := rfl
@[simp] theorem State.raise_cause : (s.raise c w info).cause = some c := rfl
@[simp] theorem State.raise_faultCmd : (s.raise c w info).faultCmd = w := rfl
@[simp] theorem State.raise_faultInfo : (s.raise c w info).faultInfo = info := rfl
@[simp] theorem State.raise_bq : (s.raise c w info).bq = s.bq := rfl
@[simp] theorem State.raise_svf : (s.raise c w info).svf = s.svf := rfl
@[simp] theorem State.raise_spl : (s.raise c w info).spl = s.spl := rfl
@[simp] theorem State.raise_env : (s.raise c w info).env = s.env := rfl
@[simp] theorem State.raise_pat : (s.raise c w info).pat = s.pat := rfl
@[simp] theorem State.raise_stg : (s.raise c w info).stg = s.stg := rfl
@[simp] theorem State.raise_inReset : (s.raise c w info).inReset = s.inReset := rfl
@[simp] theorem State.raise_host : (s.raise c w info).host = s.host := rfl
@[simp] theorem State.raise_port : (s.raise c w info).port = s.port := rfl
end raise

section afterReset
variable (s : State)
@[simp] theorem State.afterReset_cfg : s.afterReset.cfg = s.cfg := rfl
@[simp] theorem State.afterReset_x : s.afterReset.x = State.reset.x := rfl
@[simp] theorem State.afterReset_faulted : s.afterReset.faulted = State.reset.faulted := rfl
@[simp] theorem State.afterReset_rc : s.afterReset.rc = State.reset.rc := rfl
@[simp] theorem State.afterReset_cause : s.afterReset.cause = State.reset.cause := rfl
@[simp] theorem State.afterReset_faultCmd : s.afterReset.faultCmd = State.reset.faultCmd := rfl
@[simp] theorem State.afterReset_faultInfo : s.afterReset.faultInfo = State.reset.faultInfo := rfl
@[simp] theorem State.afterReset_bq : s.afterReset.bq = State.reset.bq := rfl
@[simp] theorem State.afterReset_svf : s.afterReset.svf = State.reset.svf := rfl
@[simp] theorem State.afterReset_spl : s.afterReset.spl = State.reset.spl := rfl
@[simp] theorem State.afterReset_env : s.afterReset.env = State.reset.env := rfl
@[simp] theorem State.afterReset_pat : s.afterReset.pat = State.reset.pat := rfl
@[simp] theorem State.afterReset_stg : s.afterReset.stg = State.reset.stg := rfl
@[simp] theorem State.afterReset_inReset : s.afterReset.inReset = s.inReset := rfl
@[simp] theorem State.afterReset_host : s.afterReset.host = s.host := rfl
@[simp] theorem State.afterReset_port : s.afterReset.port = s.port := rfl
end afterReset

section reply
variable (s : State) (r : PortReply)
@[simp] theorem State.reply_cfg : (s.reply r).cfg = s.cfg := rfl
@[simp] theorem State.reply_x : (s.reply r).x = s.x := rfl
@[simp] theorem State.reply_faulted : (s.reply r).faulted = s.faulted := rfl
@[simp] theorem State.reply_rc : (s.reply r).rc = s.rc := rfl
@[simp] theorem State.reply_cause : (s.reply r).cause = s.cause := rfl
@[simp] theorem State.reply_faultCmd : (s.reply r).faultCmd = s.faultCmd := rfl
@[simp] theorem State.reply_faultInfo : (s.reply r).faultInfo = s.faultInfo := rfl
@[simp] theorem State.reply_bq : (s.reply r).bq = s.bq := rfl
@[simp] theorem State.reply_svf : (s.reply r).svf = s.svf := rfl
@[simp] theorem State.reply_spl : (s.reply r).spl = s.spl := rfl
@[simp] theorem State.reply_env : (s.reply r).env = s.env := rfl
@[simp] theorem State.reply_pat : (s.reply r).pat = s.pat := rfl
@[simp] theorem State.reply_stg : (s.reply r).stg = s.stg := rfl
@[simp] theorem State.reply_inReset : (s.reply r).inReset = s.inReset := rfl
@[simp] theorem State.reply_host : (s.reply r).host = s.host := rfl
@[simp] theorem State.reply_port : (s.reply r).port = r := rfl
@[simp] theorem State.reply_getX (i : Reg) : (s.reply r).getX i = s.getX i := rfl
end reply

/-! ## Register blocks -/

/-- A block write changes nothing but the data registers. -/
theorem State.setBlock_eq (vs : List U64) : ∀ (s : State) (rd : Reg),
    s.setBlock rd vs = { s with x := (s.setBlock rd vs).x } := by
  induction vs with
  | nil => intro s rd; rfl
  | cons v vs ih => intro s rd; exact (ih (s.setX rd v) (rd + 1))

@[simp] theorem State.setBlock_cfg (s : State) (rd : Reg) (vs : List U64) : (s.setBlock rd vs).cfg = s.cfg := by
  rw [State.setBlock_eq]
@[simp] theorem State.setBlock_faulted (s : State) (rd : Reg) (vs : List U64) : (s.setBlock rd vs).faulted = s.faulted := by
  rw [State.setBlock_eq]
@[simp] theorem State.setBlock_rc (s : State) (rd : Reg) (vs : List U64) : (s.setBlock rd vs).rc = s.rc := by
  rw [State.setBlock_eq]
@[simp] theorem State.setBlock_cause (s : State) (rd : Reg) (vs : List U64) : (s.setBlock rd vs).cause = s.cause := by
  rw [State.setBlock_eq]
@[simp] theorem State.setBlock_faultCmd (s : State) (rd : Reg) (vs : List U64) : (s.setBlock rd vs).faultCmd = s.faultCmd := by
  rw [State.setBlock_eq]
@[simp] theorem State.setBlock_faultInfo (s : State) (rd : Reg) (vs : List U64) : (s.setBlock rd vs).faultInfo = s.faultInfo := by
  rw [State.setBlock_eq]
@[simp] theorem State.setBlock_bq (s : State) (rd : Reg) (vs : List U64) : (s.setBlock rd vs).bq = s.bq := by
  rw [State.setBlock_eq]
@[simp] theorem State.setBlock_svf (s : State) (rd : Reg) (vs : List U64) : (s.setBlock rd vs).svf = s.svf := by
  rw [State.setBlock_eq]
@[simp] theorem State.setBlock_spl (s : State) (rd : Reg) (vs : List U64) : (s.setBlock rd vs).spl = s.spl := by
  rw [State.setBlock_eq]
@[simp] theorem State.setBlock_env (s : State) (rd : Reg) (vs : List U64) : (s.setBlock rd vs).env = s.env := by
  rw [State.setBlock_eq]
@[simp] theorem State.setBlock_pat (s : State) (rd : Reg) (vs : List U64) : (s.setBlock rd vs).pat = s.pat := by
  rw [State.setBlock_eq]
@[simp] theorem State.setBlock_stg (s : State) (rd : Reg) (vs : List U64) : (s.setBlock rd vs).stg = s.stg := by
  rw [State.setBlock_eq]
@[simp] theorem State.setBlock_inReset (s : State) (rd : Reg) (vs : List U64) : (s.setBlock rd vs).inReset = s.inReset := by
  rw [State.setBlock_eq]
@[simp] theorem State.setBlock_host (s : State) (rd : Reg) (vs : List U64) : (s.setBlock rd vs).host = s.host := by
  rw [State.setBlock_eq]
@[simp] theorem State.setBlock_port (s : State) (rd : Reg) (vs : List U64) : (s.setBlock rd vs).port = s.port := by
  rw [State.setBlock_eq]

/-! ## Reset -/

@[simp] theorem State.getX_reset (r : Reg) : State.reset.getX r = 0 := by simp [State.getX, State.reset]
@[simp] theorem State.getPat_reset (i : Idx) : State.reset.getPat i = Pattern.default := by
  simp [State.getPat, State.reset]

end Sys2Proof.Machine
end

