-- ==== Sys2Proof/Laws/F64.lean ====
section
/-! SUPPORT. What binary64 arithmetic does, said once: the parts of a pattern, rounding (exact on representable values,
monotone), the order of values, sums and differences of finite operands. -/

namespace Sys2Proof.Machine

theorem mag_lt (a : F64) : mag a < 2 ^ 63 := Nat.mod_lt _ (by decide)

theorem toNat_eq (a : F64) : a.toNat = (if a.msb then 2 ^ 63 else 0) + mag a := by
  have := a.isLt
  rw [BitVec.msb_eq_decide]
  simp only [mag]
  by_cases h : 2 ^ 63 ≤ a.toNat
  · simp only [h, decide_true, if_true]; omega
  · simp only [h, decide_false, Bool.false_eq_true, if_false]; omega

theorem ofSignMag_toNat {m : Nat} (s : Bool) (h : m < 2 ^ 63) :
    (ofSignMag s m).toNat = (if s then 2 ^ 63 else 0) + m := by
  cases s <;> simp [ofSignMag] <;> omega

@[simp] theorem mag_ofSignMag {m : Nat} (s : Bool) (h : m < 2 ^ 63) : mag (ofSignMag s m) = m := by
  rw [mag, ofSignMag_toNat s h]; cases s <;> simp <;> omega

@[simp] theorem msb_ofSignMag {m : Nat} (s : Bool) (h : m < 2 ^ 63) : (ofSignMag s m).msb = s := by
  rw [BitVec.msb_eq_decide, ofSignMag_toNat s h]
  cases s
  · simp; omega
  · simp

theorem ofSignMag_msb_mag (a : F64) : ofSignMag a.msb (mag a) = a := by
  apply BitVec.eq_of_toNat_eq
  rw [ofSignMag_toNat _ (mag_lt a), ← toNat_eq]

theorem f64_ext {a b : F64} (hs : a.msb = b.msb) (hm : mag a = mag b) : a = b := by
  rw [← ofSignMag_msb_mag a, ← ofSignMag_msb_mag b, hs, hm]

@[simp] theorem msb_neg (a : F64) : (neg a).msb = !a.msb := by
  rw [neg, BitVec.msb_xor, show (0x8000000000000000#64).msb = true by decide, Bool.xor_true]

theorem mag_eq_extract (a : F64) : mag a = (a.extractLsb' 0 63).toNat := by simp [mag]

@[simp] theorem mag_neg (a : F64) : mag (neg a) = mag a := by
  simp only [mag_eq_extract]
  congr 1
  apply BitVec.eq_of_getLsbD_eq
  intro k hk
  simp only [neg, BitVec.getLsbD_extractLsb', BitVec.getLsbD_xor]
  interval_cases k <;> simp

@[simp] theorem mag_abs (a : F64) : mag (abs a) = mag a := by
  simp only [mag_eq_extract]
  congr 1
  apply BitVec.eq_of_getLsbD_eq
  intro k hk
  simp only [abs, BitVec.getLsbD_extractLsb', BitVec.getLsbD_and]
  interval_cases k <;> simp

@[simp] theorem msb_abs (a : F64) : (abs a).msb = false := by
  rw [abs, BitVec.msb_and, show (0x7FFFFFFFFFFFFFFF#64).msb = false by decide, Bool.and_false]

@[simp] theorem neg_neg (a : F64) : neg (neg a) = a := by simp [neg]

theorem abs_neg (a : F64) : abs (neg a) = abs a := f64_ext (by simp) (by simp)

/-! ## Rounding -/

theorem infMag_eq : infMag = 2047 * 2 ^ 52 := by decide

theorem packMag_le (sh q : Nat) (u : Bool) : packMag sh q u ≤ infMag := Nat.min_le_right _ _

theorem roundRatio_le (n d : Nat) : roundRatio n d ≤ infMag := packMag_le _ _ _

theorem roundSqrt_le (n : Nat) : roundSqrt n ≤ infMag := packMag_le _ _ _

theorem log2_mul_pow {m e : Nat} (h : 2 ^ 52 ≤ m) (h' : m < 2 ^ 53) : (m * 2 ^ e).log2 = 52 + e := by
  have h0 : m * 2 ^ e ≠ 0 := by positivity
  rw [Nat.log2_eq_iff h0]
  constructor
  · rw [pow_add]; exact Nat.mul_le_mul_right _ h
  · rw [show 52 + e + 1 = 53 + e by omega, pow_add]; exact Nat.mul_lt_mul_of_pos_right h' (by positivity)

theorem roundRatio_units {m d : Nat} (hm : m ≤ infMag) (hd : 0 < d) : roundRatio (units m * d) d = m := by
  unfold roundRatio
  rw [Nat.mul_div_cancel _ hd]
  by_cases h : m < 2 ^ 52
  · have hl : (units m).log2 - 52 = 0 := by
      rw [units, if_pos h]
      have : m.log2 < 52 := by
        by_cases h0 : m = 0
        · subst h0; decide
        · exact (Nat.log2_lt h0).2 h
      omega
    simp only [hl, pow_zero, mul_one, Nat.mul_div_cancel _ hd, Nat.mul_mod_left]
    rw [units, if_pos h]
    rw [packMag, if_neg (by simp; omega)]
    omega
  · have hE : 1 ≤ m / 2 ^ 52 := (Nat.one_le_div_iff (by decide)).2 (by omega)
    have hf : m % 2 ^ 52 < 2 ^ 52 := Nat.mod_lt _ (by decide)
    have hu : units m = (2 ^ 52 + m % 2 ^ 52) * 2 ^ (m / 2 ^ 52 - 1) := by rw [units, if_neg h]
    have hl : (units m).log2 - 52 = m / 2 ^ 52 - 1 := by
      rw [hu, log2_mul_pow (by omega) (by omega)]; omega
    simp only [hl]
    have e1 : units m * d = (2 ^ 52 + m % 2 ^ 52) * (d * 2 ^ (m / 2 ^ 52 - 1)) := by rw [hu]; ring
    have hden : 0 < d * 2 ^ (m / 2 ^ 52 - 1) := by positivity
    rw [e1, Nat.mul_div_cancel _ hden, Nat.mul_mod_left]
    rw [packMag, if_neg (by simp only [Nat.mul_zero, Nat.not_lt_zero, decide_false, Bool.false_or, Bool.and_eq_true,
      beq_iff_eq, not_and]; omega)]
    clear hu hl e1 hden hf
    generalize infMag = M at *
    have h52 : 0 < 2 ^ 52 := by decide
    have e := Nat.div_add_mod m (2 ^ 52)
    have h' : 2 ^ 52 ≤ m := by omega
    clear h
    generalize m / 2 ^ 52 = q at *
    generalize m % 2 ^ 52 = r at *
    obtain ⟨k, rfl⟩ : ∃ k, q = k + 1 := ⟨q - 1, by omega⟩
    have : k * 2 ^ 52 + (2 ^ 52 + r) + 0 = m := by rw [← e]; ring
    rw [Nat.add_sub_cancel, this]
    exact Nat.min_eq_left hm

theorem log2_div_mono {k k' : Nat} (h : k ≤ k') : k.log2 ≤ k'.log2 := by
  by_cases h0 : k = 0
  · subst h0; simp
  · exact (Nat.le_log2 (by omega)).2 (le_trans (Nat.log2_self_le h0) h)

/-- The significand is below 2^53. -/
theorem quot_lt {n d : Nat} : n / (d * 2 ^ ((n / d).log2 - 52)) < 2 ^ 53 := by
  rw [← Nat.div_div_eq_div_mul]
  rw [Nat.div_lt_iff_lt_mul (by positivity), ← pow_add]
  by_cases h0 : n / d = 0
  · rw [h0]; positivity
  · exact lt_of_lt_of_le Nat.lt_log2_self (Nat.pow_le_pow_right (by decide) (by omega))

theorem quot_ge {n d : Nat} (h : 0 < (n / d).log2 - 52) : 2 ^ 52 ≤ n / (d * 2 ^ ((n / d).log2 - 52)) := by
  rw [← Nat.div_div_eq_div_mul]
  rw [Nat.le_div_iff_mul_le (by positivity), ← pow_add]
  have h0 : n / d ≠ 0 := by intro h0; rw [h0] at h; simp at h
  calc 2 ^ (52 + ((n / d).log2 - 52)) = 2 ^ (n / d).log2 := by congr 1; omega
    _ ≤ n / d := Nat.log2_self_le h0

theorem roundRatio_mono {n d n' d' : Nat} (hd : 0 < d) (hd' : 0 < d') (h : n * d' ≤ n' * d) :
    roundRatio n d ≤ roundRatio n' d' := by
  have hk : n / d ≤ n' / d' := by
    rw [Nat.le_div_iff_mul_le hd']
    by_contra hc
    push Not at hc
    have : n / d * d ≤ n := Nat.div_mul_le_self n d
    nlinarith [Nat.mul_le_mul_right d' this, Nat.mul_lt_mul_of_pos_right hc hd]
  have hs : (n / d).log2 - 52 ≤ (n' / d').log2 - 52 := Nat.sub_le_sub_right (log2_div_mono hk) _
  unfold roundRatio packMag
  apply min_le_min_right
  rcases Nat.lt_or_ge ((n / d).log2 - 52) ((n' / d').log2 - 52) with hlt | hge
  · have hq := quot_lt (n := n) (d := d)
    have hq' := quot_ge (n := n') (d := d') (by omega)
    generalize n / (d * 2 ^ ((n / d).log2 - 52)) = q at *
    generalize n' / (d' * 2 ^ ((n' / d').log2 - 52)) = q' at *
    generalize (n / d).log2 - 52 = sh at *
    generalize (n' / d').log2 - 52 = sh' at *
    have : (sh + 1) * 2 ^ 52 ≤ sh' * 2 ^ 52 := Nat.mul_le_mul_right _ hlt
    split <;> split <;> omega
  · have he : (n' / d').log2 - 52 = (n / d).log2 - 52 := by omega
    rw [he]
    generalize (n / d).log2 - 52 = sh at *
    have hD : 0 < d * 2 ^ sh := by positivity
    have hD' : 0 < d' * 2 ^ sh := by positivity
    have hx : n * (d' * 2 ^ sh) ≤ n' * (d * 2 ^ sh) := by
      calc n * (d' * 2 ^ sh) = n * d' * 2 ^ sh := by ring
        _ ≤ n' * d * 2 ^ sh := Nat.mul_le_mul_right _ h
        _ = n' * (d * 2 ^ sh) := by ring
    generalize d * 2 ^ sh = D at *
    generalize d' * 2 ^ sh = D' at *
    have e := Nat.div_add_mod n D
    have e' := Nat.div_add_mod n' D'
    have hr := Nat.mod_lt n hD
    have hr' := Nat.mod_lt n' hD'
    generalize n / D = q at *
    generalize n' / D' = q' at *
    generalize n % D = r at *
    generalize n' % D' = r' at *
    have hq : q ≤ q' := by
      by_contra hc
      push Not at hc
      have : (q' + 1) * (D * D') ≤ q * (D * D') := Nat.mul_le_mul_right _ hc
      nlinarith [Nat.mul_le_mul_right D' (Nat.zero_le r), Nat.mul_lt_mul_of_pos_right hr' hD]
    rcases Nat.lt_or_ge q q' with hlt | hge'
    · split <;> split <;> omega
    · have hqq : q' = q := by omega
      subst hqq
      have hrr : r * D' ≤ r' * D := by nlinarith
      have : (decide (D < 2 * r) || (2 * r == D && q' % 2 == 1)) = true →
          (decide (D' < 2 * r') || (2 * r' == D' && q' % 2 == 1)) = true := by
        simp only [Bool.or_eq_true, decide_eq_true_eq, Bool.and_eq_true, beq_iff_eq]
        rintro (h1 | ⟨h1, h2⟩)
        · left
          by_contra hc
          push Not at hc
          nlinarith [Nat.mul_lt_mul_of_pos_right h1 hD', Nat.mul_le_mul_right D hc]
        · rcases Nat.lt_or_ge D' (2 * r') with h3 | h3
          · exact .inl h3
          · right
            refine ⟨?_, h2⟩
            have : D' * D ≤ 2 * r' * D := by nlinarith
            have := Nat.le_of_mul_le_mul_right this hD
            omega
      split <;> split <;> first | omega | (rename_i a b; exact absurd (this a) b)

/-! ## Values, sums and differences -/

theorem units_zero : units 0 = 0 := rfl

theorem units_le_iff {m m' : Nat} (h : m ≤ infMag) (h' : m' ≤ infMag) : units m ≤ units m' ↔ m ≤ m' := by
  have key : ∀ {a b : Nat}, a ≤ infMag → b ≤ infMag → units a ≤ units b → a ≤ b := by
    intro a b ha hb hab
    rw [← roundRatio_units ha Nat.one_pos, ← roundRatio_units hb Nat.one_pos]
    exact roundRatio_mono Nat.one_pos Nat.one_pos (by simpa using hab)
  refine ⟨key h h', fun hle => ?_⟩
  by_contra hc
  have := key h' h (by omega)
  have : m = m' := by omega
  subst this
  omega

@[simp] theorem roundRatio_zero (d : Nat) (hd : 0 < d) : roundRatio 0 d = 0 := by
  simpa [units_zero] using roundRatio_units (m := 0) (Nat.zero_le _) hd

/-- The order key of the value nearest to a whole number of units. -/
def keyOf (z : Int) : Int := if z < 0 then -(roundRatio z.natAbs 1 : Int) else roundRatio z.natAbs 1

theorem keyOf_mono {z w : Int} (h : z ≤ w) : keyOf z ≤ keyOf w := by
  unfold keyOf
  split <;> split
  · have := roundRatio_mono (n := w.natAbs) (d := 1) (n' := z.natAbs) (d' := 1) (by decide) (by decide) (by omega)
    omega
  · omega
  · omega
  · have := roundRatio_mono (n := z.natAbs) (d := 1) (n' := w.natAbs) (d' := 1) (by decide) (by decide) (by omega)
    omega

theorem isFinite_iff {a : F64} : isFinite a = true ↔ mag a < infMag := by simp [isFinite]

theorem isNaN_iff {a : F64} : isNaN a = true ↔ infMag < mag a := by simp [isNaN]

theorem not_isNaN_iff {a : F64} : isNaN a = false ↔ mag a ≤ infMag := by simp [isNaN]

theorem not_isNaN_of_isFinite {a : F64} (h : isFinite a = true) : isNaN a = false :=
  not_isNaN_iff.2 (le_of_lt (isFinite_iff.1 h))

theorem not_isInf_of_isFinite {a : F64} (h : isFinite a = true) : isInf a = false := by
  have := isFinite_iff.1 h
  simp [isInf]; omega

/-- A finite value is its own nearest. -/
theorem keyOf_value {a : F64} (h : isNaN a = false) : keyOf (value a) = orderKey a := by
  have hm := not_isNaN_iff.1 h
  have hu := roundRatio_units hm Nat.one_pos
  rw [Nat.mul_one] at hu
  unfold keyOf value orderKey
  by_cases hs : a.msb = true
  · by_cases h0 : units (mag a) = 0
    · have : mag a = 0 := by rw [h0] at hu; simpa using hu.symm
      simp [hs, this, units_zero]
    · simp only [hs, if_true]
      rw [if_pos (by omega), Int.natAbs_neg, Int.natAbs_natCast, hu]
  · simp only [hs, Bool.false_eq_true, if_false]
    rw [if_neg (by omega), Int.natAbs_natCast, hu]

theorem value_le_iff {a b : F64} (ha : isNaN a = false) (hb : isNaN b = false) :
    value a ≤ value b ↔ orderKey a ≤ orderKey b := by
  have hma := not_isNaN_iff.1 ha
  have hmb := not_isNaN_iff.1 hb
  have h1 := units_le_iff hma hmb
  have h2 := units_le_iff hmb hma
  have h0 : ∀ {m}, m ≤ infMag → (units m = 0 ↔ m = 0) := by
    intro m hm
    have := units_le_iff hm (Nat.zero_le infMag)
    rw [units_zero] at this
    omega
  have ha0 := h0 hma
  have hb0 := h0 hmb
  unfold value orderKey
  split <;> split <;> omega

/-- Neither operand is a NaN and the values are in order. -/
theorem le_iff {a b : F64} : le a b = true ↔ isNaN a = false ∧ isNaN b = false ∧ orderKey a ≤ orderKey b := by
  simp [le, and_assoc]

theorem lt_iff {a b : F64} : lt a b = true ↔ isNaN a = false ∧ isNaN b = false ∧ orderKey a < orderKey b := by
  simp [lt, and_assoc]

theorem feq_iff {a b : F64} : feq a b = true ↔ isNaN a = false ∧ isNaN b = false ∧ orderKey a = orderKey b := by
  simp [feq, and_assoc]

theorem f64_le_trans {a b c : F64} (h : le a b = true) (h' : le b c = true) : le a c = true := by
  obtain ⟨h1, -, h2⟩ := le_iff.1 h
  obtain ⟨-, h3, h4⟩ := le_iff.1 h'
  exact le_iff.2 ⟨h1, h3, h2.trans h4⟩

theorem f64_le_refl {a : F64} (h : isNaN a = false) : le a a = true := le_iff.2 ⟨h, h, le_refl _⟩

@[simp] theorem isNaN_freeNaN (op : NanOp) (a b : F64) : isNaN (freeNaN op a b) = true := by
  rw [isNaN_iff, mag_eq_extract]
  have : (freeNaN op a b).extractLsb' 51 12 = 0xFFF#12 := by
    apply BitVec.eq_of_getLsbD_eq
    intro k hk
    simp only [freeNaN, BitVec.getLsbD_extractLsb', BitVec.getLsbD_append]
    interval_cases k <;> simp
  have h3 := congrArg BitVec.toNat this
  have hlt := (freeNaN op a b).isLt
  simp only [BitVec.extractLsb'_toNat, BitVec.toNat_ofNat, Nat.shiftRight_eq_div_pow] at h3 ⊢
  unfold infMag
  omega

/-- The nearest value to a sum that is not zero, or a zero. -/
theorem orderKey_ofSignMag {m : Nat} (s : Bool) (h : m < 2 ^ 63) :
    orderKey (ofSignMag s m) = if s then -(m : Int) else m := by
  simp [orderKey, mag_ofSignMag s h, msb_ofSignMag s h]

theorem infMag_lt : infMag < 2 ^ 63 := by decide

theorem not_isNaN_ofSignMag {m : Nat} (s : Bool) (h : m ≤ infMag) : isNaN (ofSignMag s m) = false := by
  rw [not_isNaN_iff, mag_ofSignMag s (lt_of_le_of_lt h infMag_lt)]; exact h

/-- The sum of two finite values is not a NaN, and is the value nearest to the exact sum. -/
theorem sumOf_finite (op : NanOp) {a b : F64} (ha : isFinite a = true) (hb : isFinite b = true) :
    isNaN (sumOf op a b) = false ∧ orderKey (sumOf op a b) = keyOf (value a + value b) := by
  unfold sumOf
  rw [not_isInf_of_isFinite ha, not_isInf_of_isFinite hb]
  simp only [Bool.false_eq_true, if_false]
  by_cases h0 : value a + value b = 0
  · rw [if_pos h0, h0]
    refine ⟨not_isNaN_ofSignMag _ (Nat.zero_le _), ?_⟩
    rw [orderKey_ofSignMag _ (by decide)]
    simp [keyOf]
  · rw [if_neg h0]
    have hr := roundRatio_le (value a + value b).natAbs 1
    refine ⟨not_isNaN_ofSignMag _ hr, ?_⟩
    rw [orderKey_ofSignMag _ (lt_of_le_of_lt hr infMag_lt)]
    simp [keyOf]

@[simp] theorem value_neg (a : F64) : value (neg a) = -value a := by
  unfold value
  rw [mag_neg, msb_neg]
  cases a.msb <;> simp

@[simp] theorem isFinite_neg (a : F64) : isFinite (neg a) = isFinite a := by simp [isFinite]
@[simp] theorem isNaN_neg (a : F64) : isNaN (neg a) = isNaN a := by simp [isNaN]
@[simp] theorem isFinite_abs (a : F64) : isFinite (abs a) = isFinite a := by simp [isFinite]
@[simp] theorem isNaN_abs (a : F64) : isNaN (abs a) = isNaN a := by simp [isNaN]

/-! ## NaN operands (00_scope R12) -/

theorem isNaN_add {A : Arith} {a b : F64} (h : isNaN a = true ∨ isNaN b = true) : isNaN (A.add a b) = true := by
  rw [Arith.add, if_pos (by simpa using h)]; exact isNaN_freeNaN ..

theorem isNaN_sub {A : Arith} {a b : F64} (h : isNaN a = true ∨ isNaN b = true) : isNaN (A.sub a b) = true := by
  rw [Arith.sub, if_pos (by simpa using h)]; exact isNaN_freeNaN ..

theorem isNaN_mul {A : Arith} {a b : F64} (h : isNaN a = true ∨ isNaN b = true) : isNaN (A.mul a b) = true := by
  rw [Arith.mul, if_pos (by simpa using h)]; exact isNaN_freeNaN ..

theorem isNaN_div {A : Arith} {a b : F64} (h : isNaN a = true ∨ isNaN b = true) : isNaN (A.div a b) = true := by
  rw [Arith.div, if_pos (by simpa using h)]; exact isNaN_freeNaN ..

theorem isNaN_sqrt {A : Arith} {a : F64} (h : isNaN a = true) : isNaN (A.sqrt a) = true := by
  rw [Arith.sqrt, if_pos h]; exact isNaN_freeNaN ..

/-! ## Flushing -/

theorem flush_false {A : Arith} (h : A.ftz = false) (a : F64) : A.flush a = a := by simp [Arith.flush, h]

theorem flush_cases (A : Arith) (a : F64) :
    A.flush a = a ∨ (isSubnormal a = true ∧ A.flush a = ofSignMag a.msb 0) := by
  unfold Arith.flush
  by_cases h : (A.ftz && isSubnormal a) = true
  · rw [if_pos h]; exact .inr ⟨by simpa using (Bool.and_eq_true_iff.1 h).2, rfl⟩
  · rw [if_neg h]; exact .inl rfl

theorem mag_flush_le (A : Arith) (a : F64) : mag (A.flush a) ≤ mag a := by
  rcases flush_cases A a with h | ⟨-, h⟩ <;> rw [h]
  rw [mag_ofSignMag _ (by decide)]; exact Nat.zero_le _

theorem isFinite_flush (A : Arith) {a : F64} (h : isFinite a = true) : isFinite (A.flush a) = true :=
  isFinite_iff.2 (lt_of_le_of_lt (mag_flush_le A a) (isFinite_iff.1 h))

theorem isNaN_flush (A : Arith) {a : F64} (h : isNaN a = false) : isNaN (A.flush a) = false :=
  not_isNaN_iff.2 ((mag_flush_le A a).trans (not_isNaN_iff.1 h))

/-- Flushing keeps the order of values. -/
theorem orderKey_flush_mono (A : Arith) {a b : F64} (h : orderKey a ≤ orderKey b) :
    orderKey (A.flush a) ≤ orderKey (A.flush b) := by
  have key : ∀ a : F64, orderKey (A.flush a) = if A.ftz = true ∧ -2 ^ 52 < orderKey a ∧ orderKey a < 2 ^ 52 then 0
      else orderKey a := by
    intro a
    unfold Arith.flush
    have hm := mag_lt a
    have e1 : (A.ftz = true ∧ -2 ^ 52 < orderKey a ∧ orderKey a < 2 ^ 52) ↔ (A.ftz = true ∧ mag a < 2 ^ 52) := by
      apply and_congr_right
      intro _
      unfold orderKey
      split <;> omega
    by_cases h : (A.ftz && isSubnormal a) = true
    · rw [if_pos h, orderKey_ofSignMag _ (by decide)]
      simp only [isSubnormal, Bool.and_eq_true, decide_eq_true_eq] at h
      rw [if_pos (e1.2 ⟨h.1, h.2.2⟩)]; simp
    · rw [if_neg h]
      split
      · rename_i hc
        have := e1.1 hc
        simp only [isSubnormal, Bool.and_eq_true, decide_eq_true_eq, not_and] at h
        have h0 : mag a = 0 := by
          by_contra h0
          exact h this.1 (Nat.pos_of_ne_zero h0) this.2
        simp [orderKey, h0]
      · rfl
  rw [key a, key b]
  by_cases hf : A.ftz = true
  · simp only [hf, true_and]
    split <;> split <;> omega
  · simpa [hf] using h

/-- A sum of finite operands: not a NaN, and the exact sum of the flushed operands rounded once and flushed. -/
theorem add_finite (A : Arith) {a b : F64} (ha : isFinite a = true) (hb : isFinite b = true) :
    isNaN (A.add a b) = false ∧
    A.add a b = A.flush (sumOf .add (A.flush a) (A.flush b)) ∧
    orderKey (sumOf .add (A.flush a) (A.flush b)) = keyOf (value (A.flush a) + value (A.flush b)) := by
  have h := sumOf_finite .add (isFinite_flush A ha) (isFinite_flush A hb)
  have e : A.add a b = A.flush (sumOf .add (A.flush a) (A.flush b)) := by
    simp [Arith.add, not_isNaN_of_isFinite ha, not_isNaN_of_isFinite hb]
  exact ⟨e ▸ isNaN_flush A h.1, e, h.2⟩

/-- A difference of finite operands: not a NaN, and the exact difference of the flushed operands rounded once and
flushed. -/
theorem sub_finite (A : Arith) {a b : F64} (ha : isFinite a = true) (hb : isFinite b = true) :
    isNaN (A.sub a b) = false ∧
    A.sub a b = A.flush (sumOf .sub (A.flush a) (neg (A.flush b))) ∧
    orderKey (sumOf .sub (A.flush a) (neg (A.flush b))) = keyOf (value (A.flush a) - value (A.flush b)) := by
  have h := sumOf_finite .sub (isFinite_flush A ha) (b := neg (A.flush b)) (by simpa using isFinite_flush A hb)
  have e : A.sub a b = A.flush (sumOf .sub (A.flush a) (neg (A.flush b))) := by
    simp [Arith.sub, not_isNaN_of_isFinite ha, not_isNaN_of_isFinite hb]
  refine ⟨e ▸ isNaN_flush A h.1, e, ?_⟩
  rw [h.2, value_neg, Int.sub_eq_add_neg]

theorem value_flush_le_iff (A : Arith) {a b : F64} (ha : isNaN a = false) (hb : isNaN b = false)
    (h : orderKey a ≤ orderKey b) : value (A.flush a) ≤ value (A.flush b) :=
  (value_le_iff (isNaN_flush A ha) (isNaN_flush A hb)).2 (orderKey_flush_mono A h)

/-- Subtraction falls as its second operand grows. -/
theorem sub_anti (A : Arith) {a b c : F64} (ha : isFinite a = true) (hb : isFinite b = true) (hc : isFinite c = true)
    (h : le b c = true) : le (A.sub a c) (A.sub a b) = true := by
  obtain ⟨n1, e1, k1⟩ := sub_finite A ha hb
  obtain ⟨n2, e2, k2⟩ := sub_finite A ha hc
  refine le_iff.2 ⟨n2, n1, ?_⟩
  rw [e1, e2]
  apply orderKey_flush_mono
  rw [k1, k2]
  apply keyOf_mono
  have := value_flush_le_iff A (not_isNaN_of_isFinite hb) (not_isNaN_of_isFinite hc) (le_iff.1 h).2.2
  omega

/-- Subtraction grows with its first operand. -/
theorem sub_mono (A : Arith) {a b c : F64} (ha : isFinite a = true) (hb : isFinite b = true) (hc : isFinite c = true)
    (h : le a b = true) : le (A.sub a c) (A.sub b c) = true := by
  obtain ⟨n1, e1, k1⟩ := sub_finite A ha hc
  obtain ⟨n2, e2, k2⟩ := sub_finite A hb hc
  refine le_iff.2 ⟨n1, n2, ?_⟩
  rw [e1, e2]
  apply orderKey_flush_mono
  rw [k1, k2]
  apply keyOf_mono
  have := value_flush_le_iff A (not_isNaN_of_isFinite ha) (not_isNaN_of_isFinite hb) (le_iff.1 h).2.2
  omega

theorem isFinite_of_inClosed {x : F64} (h : inClosed Const.zero x Const.one = true) : isFinite x = true := by
  simp only [inClosed, Bool.and_eq_true] at h
  have h1 := (le_iff.1 h.1).2.2
  have h2 := (le_iff.1 h.2).2.2
  have e0 : orderKey Const.zero = 0 := by decide
  have e1 : orderKey Const.one = 0x3FF0000000000000 := by decide
  rw [isFinite_iff]
  unfold infMag
  rw [e0] at h1
  rw [e1] at h2
  revert h1 h2
  unfold orderKey
  split <;> omega

/-- `1.0 -. x` maps the unit interval into itself. -/
theorem one_sub_mem (A : Arith) {x : F64} (h : inClosed Const.zero x Const.one = true) :
    inClosed Const.zero (A.sub Const.one x) Const.one = true := by
  have hx := isFinite_of_inClosed h
  have h1 : isFinite Const.one = true := by decide
  have h0 : isFinite Const.zero = true := by decide
  have h' := h
  simp only [inClosed, Bool.and_eq_true] at h' ⊢
  have e0 : A.sub Const.one Const.one = Const.zero := by rcases A with ⟨_ | _, _ | _⟩ <;> decide +kernel
  have e1 : A.sub Const.one Const.zero = Const.one := by rcases A with ⟨_ | _, _ | _⟩ <;> decide +kernel
  constructor
  · rw [← e0]; exact sub_anti A h1 hx h1 h'.2
  · have := sub_anti A h1 h0 hx h'.1
    rwa [e1] at this
end Sys2Proof.Machine
end

