-- ==== Sys2Proof/Laws/Elementary.lean ====
section
/-! SUPPORT. The elementary functions: the named properties of 00_scope R13 for every arithmetic, and the corner cases beyond
them for a regular one (log entry 3). -/

namespace Sys2Proof.Machine

/-! ## Keeping a free result to a property -/

theorem keep_of_named {A : Arith} (h : A.elementary = .named) (ok : F64 → Bool) (alt r : F64) : A.keep ok alt r = r := by
  simp [Arith.keep, Arith.isRegular, h]

/-- A kept result has the property, if the value it may count as has it. -/
theorem keep_spec {A : Arith} (h : A.elementary = .regular) {ok : F64 → Bool} {alt : F64} (ha : ok alt = true) (r : F64) :
    ok (A.keep ok alt r) = true := by
  unfold Arith.keep
  cases hr : ok r <;> simp [Arith.isRegular, h, hr, ha]

/-- A kept result is the free result, or the value that has the property. -/
theorem keep_cases (A : Arith) (ok : F64 → Bool) (alt r : F64) : A.keep ok alt r = alt ∨ A.keep ok alt r = r := by
  unfold Arith.keep
  split
  · exact .inl rfl
  · exact .inr rfl

/-! ## NaN operands, and infinities where the corner cases are fixed -/

theorem noAngle_of_isNaN (A : Arith) {a : F64} (h : isNaN a = true) : A.noAngle a = true := by simp [Arith.noAngle, h]

theorem noAngle_of_isInf {A : Arith} (hA : A.elementary = .regular) {a : F64} (h : isInf a = true) :
    A.noAngle a = true := by simp [Arith.noAngle, Arith.isRegular, hA, h]

theorem noAngle_zero (A : Arith) : A.noAngle Const.zero = false := by
  have h1 : isNaN Const.zero = false := by decide
  have h2 : isInf Const.zero = false := by decide
  simp [Arith.noAngle, h1, h2]

theorem noAngle_of_isZero (A : Arith) {a : F64} (h : isZero a = true) : A.noAngle a = false := by
  have hm : mag a = 0 := by simpa [isZero] using h
  have h1 : isNaN a = false := by simp [isNaN, hm]
  have h2 : isInf a = false := by simp [isInf, hm, infMag]
  simp [Arith.noAngle, h1, h2]

theorem isNaN_tanF {A : Arith} {a : F64} (h : A.noAngle a = true) : isNaN (tanF A a) = true := by
  rw [tanF, if_pos h]; exact isNaN_freeNaN ..

theorem isNaN_sinF {A : Arith} {a : F64} (h : A.noAngle a = true) : isNaN (sinF A a) = true := by
  rw [sinF, if_pos h]; exact isNaN_freeNaN ..

theorem isNaN_cosF {A : Arith} {a : F64} (h : A.noAngle a = true) : isNaN (cosF A a) = true := by
  rw [cosF, if_pos h]; exact isNaN_freeNaN ..

/-! ## Named properties (00_scope R13) -/

@[simp] theorem tanF_zero (A : Arith) : tanF A Const.zero = Const.zero := by simp [tanF, noAngle_zero]
@[simp] theorem sinF_zero (A : Arith) : sinF A Const.zero = Const.zero := by simp [sinF, noAngle_zero]
@[simp] theorem cosF_zero (A : Arith) : cosF A Const.zero = Const.one := by simp [cosF, noAngle_zero]

@[simp] theorem log10F_one (A : Arith) : log10F A Const.one = Const.zero := by
  have h1 : isNaN Const.one = false := by decide
  have h2 : isZero Const.one = false := by decide
  have h3 : Const.one.msb = false := by decide
  simp [log10F, h1, h2, h3]

theorem powF_of_isZero (A : Arith) (b : F64) {e : F64} (h : isZero e = true) : powF A b e = Const.one := by simp [powF, h]

@[simp] theorem powF_one_left (A : Arith) (e : F64) : powF A Const.one e = Const.one := by simp [powF]

theorem powF_one_right (A : Arith) {b : F64} (h : isNaN b = false) : powF A b Const.one = b := by
  have h1 : isZero Const.one = false := by decide
  have h2 : isNaN Const.one = false := by decide
  by_cases hb : b = Const.one
  · simp [powF, h1, hb]
  · simp [powF, h1, h2, hb, h]

theorem isNaN_powF (A : Arith) {b e : F64} (he : isNaN e = true) (hb : b ≠ Const.one) : isNaN (powF A b e) = true := by
  have hz : isZero e = false := by
    simp only [isNaN, isZero, decide_eq_true_eq, beq_eq_false_iff_ne] at he ⊢
    omega
  simp only [powF, hz, hb, he, Bool.or_true, if_true, Bool.false_eq_true, if_false]
  exact isNaN_freeNaN ..

theorem powF_zero_left (A : Arith) {e : F64} (he : isFinite e = true) (hp : gt e Const.zero = true) :
    powF A Const.zero e = Const.zero := by
  have h0 : (Const.zero : F64) ≠ Const.one := by decide
  have hz : isZero e = false := by
    by_contra hc
    rw [Bool.not_eq_false] at hc
    have hm : mag e = 0 := by simpa [isZero] using hc
    have hk : orderKey e = 0 := by simp [orderKey, hm]
    have hk0 : orderKey Const.zero = 0 := by decide
    simp [gt, lt, hk, hk0] at hp
  have hn : isNaN e = false := not_isNaN_of_isFinite he
  have hn0 : isNaN Const.zero = false := by decide
  unfold powF
  simp only [hz, h0, hn, hn0, he, hp, Bool.false_eq_true, if_false, Bool.or_self, decide_true, Bool.and_self, if_true]
  split <;> rfl

/-! ## Corner cases of a regular arithmetic -/

/-- At a zero of either sign `tan` and `sin` are a zero and `cos` is 1 (42_coefficients R149). -/
theorem isZero_tanF {A : Arith} (hA : A.elementary = .regular) {a : F64} (h : isZero a = true) :
    isZero (tanF A a) = true := by
  rw [tanF, if_neg (by simp [noAngle_of_isZero, h])]
  split
  · decide
  · have hk := keep_spec hA (ok := fun r => if isZero a then isZero r else isFinite r || isInf a) (alt := Const.zero)
      (by simp only [h, if_true]; decide) (quieten (Config.tanRaw a))
    simpa only [h, if_true] using hk

theorem isZero_sinF {A : Arith} (hA : A.elementary = .regular) {a : F64} (h : isZero a = true) :
    isZero (sinF A a) = true := by
  rw [sinF, if_neg (by simp [noAngle_of_isZero, h])]
  split
  · decide
  · have hz : isZero Const.zero = true := by decide
    have hk := keep_spec hA (ok := fun r => !isZero a || isZero r) (alt := Const.zero) (by simp [hz])
      (quieten (Config.sinRaw a))
    simpa [h] using hk

theorem cosF_of_isZero {A : Arith} (hA : A.elementary = .regular) {a : F64} (h : isZero a = true) :
    cosF A a = Const.one := by
  rw [cosF, if_neg (by simp [noAngle_of_isZero, h]), if_pos (by simp [Arith.isRegular, hA, h])]

/-- The logarithm of a finite positive value is finite in decibels (43_splitter R171). -/
theorem isFinite_decibels {A : Arith} (hA : A.elementary = .regular) {a : F64} (hf : isFinite a = true)
    (hp : gt a Const.zero = true) : isFinite (A.mul Const.twenty (log10F A a)) = true := by
  have hz : isFinite (A.mul Const.twenty Const.zero) = true := by
    rcases A with ⟨_ | _, _ | _⟩ <;> decide +kernel
  have hm : isZero a = false ∧ a.msb = false := by
    simp only [gt, lt, Bool.and_eq_true, decide_eq_true_eq] at hp
    have hk0 : orderKey Const.zero = 0 := by decide
    rw [hk0] at hp
    have h := hp.2
    unfold orderKey at h
    constructor
    · by_contra hc
      rw [Bool.not_eq_false] at hc
      have : mag a = 0 := by simpa [isZero] using hc
      split at h <;> omega
    · by_contra hc
      rw [Bool.not_eq_false] at hc
      rw [if_pos hc] at h
      omega
  have hn := not_isNaN_of_isFinite hf
  have hi := not_isInf_of_isFinite hf
  unfold log10F
  rw [if_neg (by simp [hn]), if_neg (by simp [hm.1]), if_neg (by simp [hm.2])]
  split
  · exact hz
  · rw [if_neg (by simp [hi])]
    exact keep_spec hA (ok := fun r => isFinite (A.mul Const.twenty r)) hz _

/-- A power of -0.0 is a zero (45_pattern R212 at `x = -0.0`). -/
theorem isZero_powF {A : Arith} (hA : A.elementary = .regular) {b e : F64} (hb : isZero b = true)
    (he : isFinite e = true) (hp : gt e Const.zero = true) : isZero (powF A b e) = true := by
  have h1 : b ≠ Const.one := by
    intro h
    rw [h] at hb
    revert hb
    decide
  have hbn : isNaN b = false := by
    have h : mag b = 0 := by simpa [isZero] using hb
    simp [isNaN, h]
  have hez : isZero e = false := by
    by_contra hc
    rw [Bool.not_eq_false] at hc
    have hm : mag e = 0 := by simpa [isZero] using hc
    have hk : orderKey e = 0 := by simp [orderKey, hm]
    have hk0 : orderKey Const.zero = 0 := by decide
    simp [gt, lt, hk, hk0] at hp
  unfold powF
  rw [if_neg (by simp [hez]), if_neg h1, if_neg (by simp [hbn, not_isNaN_of_isFinite he])]
  split
  · exact hb
  split
  · decide
  rw [if_pos (by simp [hb, he, hp])]
  exact keep_spec hA (ok := isZero) (by decide) _

/-- A tame power is finite and above zero (45_pattern R212). -/
theorem powF_tame {A : Arith} (hA : A.elementary = .regular) {b e : F64} (ht : tamePower b e = true) :
    isFinite (powF A b e) = true ∧ gt (powF A b e) Const.zero = true := by
  have one : isFinite Const.one = true ∧ gt Const.one Const.zero = true := by decide
  have hle : ∀ x y : F64, le x y = true → isNaN x = false ∧ isNaN y = false ∧ orderKey x ≤ orderKey y := by
    intro x y h
    simpa [le, and_assoc] using h
  have hb : ∃ lo hi : F64, le lo b = true ∧ le b hi = true ∧ 0 < orderKey lo ∧ orderKey hi < infMag := by
    simp only [tamePower, within, Bool.or_eq_true, Bool.and_eq_true] at ht
    rcases ht with h | h
    · exact ⟨_, _, h.1.1, h.1.2, by decide, by decide⟩
    · exact ⟨_, _, h.1.1, h.1.2, by decide, by decide⟩
  have he : isNaN e = false := by
    simp only [tamePower, within, Bool.or_eq_true, Bool.and_eq_true] at ht
    rcases ht with h | h
    · exact (hle _ _ h.2.1).2.1
    · exact (hle _ _ h.2.1).2.1
  obtain ⟨lo, hi, h1, h2, h3, h4⟩ := hb
  have k1 := hle _ _ h1
  have k2 := hle _ _ h2
  have hbn : isNaN b = false := k1.2.1
  have hbk : 0 < orderKey b ∧ orderKey b < infMag := ⟨by omega, by omega⟩
  have hbf : isFinite b = true := by
    have h := hbk
    unfold orderKey at h
    simp only [isFinite, decide_eq_true_eq]
    split at h <;> omega
  have hbp : gt b Const.zero = true := by
    have hk0 : orderKey Const.zero = 0 := by decide
    have hn0 : isNaN Const.zero = false := by decide
    simp [gt, lt, hbn, hn0, hk0, hbk.1]
  have hbz : isZero b = false := by
    have h := hbk.1
    unfold orderKey at h
    simp only [isZero, beq_eq_false_iff_ne]
    split at h <;> omega
  have hb0 : b ≠ Const.zero := by
    intro h
    rw [h] at hbk
    revert hbk
    decide
  unfold powF
  split
  · exact one
  split
  · exact one
  rw [if_neg (by simp [hbn, he])]
  split
  · exact ⟨hbf, hbp⟩
  rw [if_neg (by simp [hb0]), if_neg (by simp [hbz])]
  have h := keep_spec hA (ok := fun r => !tamePower b e || (isFinite r && gt r Const.zero)) (alt := Const.one)
    (by simp [one.1, one.2]) (nonNegFor b (quieten (Config.powRaw b e)))
  simpa [ht] using h

end Sys2Proof.Machine
end

