-- ==== Sys2Proof/Laws/Ops.lean ====
section
/-! SUPPORT. What each shared operation can do, said once: the outcome of a command, and the checks before a command's own
rule. -/

namespace Sys2Proof.Machine

/-! ## Outcomes -/

@[simp] theorem settle_completes (w : Word32) (s t : State) (rc : ResultCode) :
    settle w s (.completes rc t) = .next { t with rc := rc } := rfl
@[simp] theorem settle_faults (w : Word32) (s : State) (c : FaultCause) (info : Word32) :
    settle w s (.faults c info) = .next (s.raise c w info) := rfl
@[simp] theorem settle_refused (w : Word32) (s : State) : settle w s .refused = .next s := rfl

/-- With a fault recorded a command changes nothing (60_exceptions R257). -/
theorem command_of_faulted {i : Instr} {s : State} {o : CmdOutcome} (h : s.faulted = true) :
    command i s o = .next s := by simp [command, h]

/-- With no fault recorded a command does what its rule says. -/
theorem command_of_running {i : Instr} {s : State} {o : CmdOutcome} (h : s.faulted = false) :
    command i s o = settle (encode i) s o := by simp [command, h]

/-- A settled outcome is always a next state. -/
theorem settle_next (w : Word32) (s : State) (o : CmdOutcome) : ∃ t, settle w s o = .next t := by
  cases o <;> exact ⟨_, rfl⟩

/-- A command is always a next state. -/
theorem command_next (i : Instr) (s : State) (o : CmdOutcome) : ∃ t, command i s o = .next t := settle_next _ _ _

/-- Everything a command can do: refused, it changes nothing; completing, it is the rule's state with the result code;
faulting, it writes the four fault registers. -/
theorem command_cases {i : Instr} {s t : State} {o : CmdOutcome} (h : command i s o = .next t) :
    (t = s ∧ (s.faulted = true ∨ o = .refused)) ∨
    (s.faulted = false ∧ ∃ rc u, o = .completes rc u ∧ t = { u with rc := rc }) ∨
    (s.faulted = false ∧ ∃ c info, o = .faults c info ∧ t = s.raise c (encode i) info) := by
  by_cases hf : s.faulted = true
  · rw [command_of_faulted hf] at h
    exact .inl ⟨(Host.Outcome.next.inj h).symm, .inl hf⟩
  · have hf' : s.faulted = false := by simpa using hf
    rw [command_of_running hf'] at h
    cases o with
    | completes rc u => exact .inr (.inl ⟨hf', rc, u, rfl, (Host.Outcome.next.inj h).symm⟩)
    | faults c info => exact .inr (.inr ⟨hf', c, info, rfl, (Host.Outcome.next.inj h).symm⟩)
    | refused => exact .inl ⟨(Host.Outcome.next.inj h).symm, .inr rfl⟩

/-! ## Checks -/

theorem checkInst_of_lt {n : Nat} {i : Idx} {k : CmdOutcome} (h : i.toNat < n) : checkInst n i k = k := if_pos h

theorem checkInst_of_not_lt {n : Nat} {i : Idx} {k : CmdOutcome} (h : ¬ i.toNat < n) :
    checkInst n i k = .faults .badInstance 0 := if_neg h

/-- The range check lets the command go on, or is `BAD_INSTANCE`. -/
theorem checkInst_cases (n : Nat) (i : Idx) (k : CmdOutcome) :
    (i.toNat < n ∧ checkInst n i k = k) ∨ (¬ i.toNat < n ∧ checkInst n i k = .faults .badInstance 0) := by
  by_cases h : i.toNat < n
  · exact .inl ⟨h, checkInst_of_lt h⟩
  · exact .inr ⟨h, checkInst_of_not_lt h⟩

@[simp] theorem checkValid_some {α : Type} (a : α) (k : α → CmdOutcome) : checkValid (some a) k = k a := rfl
@[simp] theorem checkValid_none {α : Type} (k : α → CmdOutcome) : checkValid none k = .faults .uninit 0 := rfl

/-- What both checks of a unit with a `valid` bit can do. -/
theorem checked_cases {α : Type} (n : Nat) (i : Idx) (o : Option α) (k : α → CmdOutcome) :
    (¬ i.toNat < n ∧ checkInst n i (checkValid o k) = .faults .badInstance 0) ∨
    (i.toNat < n ∧ o = none ∧ checkInst n i (checkValid o k) = .faults .uninit 0) ∨
    (i.toNat < n ∧ ∃ a, o = some a ∧ checkInst n i (checkValid o k) = k a) := by
  by_cases h : i.toNat < n
  · cases o with
    | none => exact .inr (.inl ⟨h, rfl, checkInst_of_lt h⟩)
    | some a => exact .inr (.inr ⟨h, a, rfl, checkInst_of_lt h⟩)
  · exact .inl ⟨h, checkInst_of_not_lt h⟩

section units
variable {s : State} {i : Idx}

theorem withBq_some {b : Biquad} {k : Biquad → CmdOutcome} (hi : i.toNat < s.cfg.nBq)
    (hb : bankGet s.bq i = some b) : withBq s i k = k b := by
  rw [withBq, checkInst_of_lt hi, hb, checkValid_some]

theorem withSvf_some {v : Svf} {k : Svf → CmdOutcome} (hi : i.toNat < s.cfg.nSvf)
    (hv : bankGet s.svf i = some v) : withSvf s i k = k v := by
  rw [withSvf, checkInst_of_lt hi, hv, checkValid_some]

theorem withSpl_some {p : Splitter} {k : Splitter → CmdOutcome} (hi : i.toNat < s.cfg.nSpl)
    (hp : bankGet s.spl i = some p) : withSpl s i k = k p := by
  rw [withSpl, checkInst_of_lt hi, hp, checkValid_some]

theorem withEnv_some {e : Envelope} {k : Envelope → CmdOutcome} (hi : i.toNat < s.cfg.nEnv)
    (he : bankGet s.env i = some e) : withEnv s i k = k e := by
  rw [withEnv, checkInst_of_lt hi, he, checkValid_some]

theorem withPat_of_lt {k : Pattern → CmdOutcome} (hi : i.toNat < s.cfg.nPat) : withPat s i k = k (s.getPat i) := by
  rw [withPat, checkInst_of_lt hi]

theorem withBq_cases (s : State) (i : Idx) (k : Biquad → CmdOutcome) :
    (∃ c, withBq s i k = .faults c 0) ∨ (i.toNat < s.cfg.nBq ∧ ∃ b, bankGet s.bq i = some b ∧ withBq s i k = k b) := by
  rcases checked_cases s.cfg.nBq i (bankGet s.bq i) k with ⟨-, h⟩ | ⟨-, -, h⟩ | ⟨hi, b, hb, h⟩
  · exact .inl ⟨_, h⟩
  · exact .inl ⟨_, h⟩
  · exact .inr ⟨hi, b, hb, h⟩

theorem withSvf_cases (s : State) (i : Idx) (k : Svf → CmdOutcome) :
    (∃ c, withSvf s i k = .faults c 0) ∨ (i.toNat < s.cfg.nSvf ∧ ∃ v, bankGet s.svf i = some v ∧ withSvf s i k = k v) := by
  rcases checked_cases s.cfg.nSvf i (bankGet s.svf i) k with ⟨-, h⟩ | ⟨-, -, h⟩ | ⟨hi, b, hb, h⟩
  · exact .inl ⟨_, h⟩
  · exact .inl ⟨_, h⟩
  · exact .inr ⟨hi, b, hb, h⟩

theorem withSpl_cases (s : State) (i : Idx) (k : Splitter → CmdOutcome) :
    (∃ c, withSpl s i k = .faults c 0) ∨ (i.toNat < s.cfg.nSpl ∧ ∃ p, bankGet s.spl i = some p ∧ withSpl s i k = k p) := by
  rcases checked_cases s.cfg.nSpl i (bankGet s.spl i) k with ⟨-, h⟩ | ⟨-, -, h⟩ | ⟨hi, b, hb, h⟩
  · exact .inl ⟨_, h⟩
  · exact .inl ⟨_, h⟩
  · exact .inr ⟨hi, b, hb, h⟩

theorem withEnv_cases (s : State) (i : Idx) (k : Envelope → CmdOutcome) :
    (∃ c, withEnv s i k = .faults c 0) ∨ (i.toNat < s.cfg.nEnv ∧ ∃ e, bankGet s.env i = some e ∧ withEnv s i k = k e) := by
  rcases checked_cases s.cfg.nEnv i (bankGet s.env i) k with ⟨-, h⟩ | ⟨-, -, h⟩ | ⟨hi, b, hb, h⟩
  · exact .inl ⟨_, h⟩
  · exact .inl ⟨_, h⟩
  · exact .inr ⟨hi, b, hb, h⟩

theorem withPat_cases (s : State) (i : Idx) (k : Pattern → CmdOutcome) :
    (withPat s i k = .faults .badInstance 0) ∨ (i.toNat < s.cfg.nPat ∧ withPat s i k = k (s.getPat i)) := by
  rcases checkInst_cases s.cfg.nPat i (k (s.getPat i)) with ⟨hi, h⟩ | ⟨-, h⟩
  · exact .inr ⟨hi, h⟩
  · exact .inl h

end units

/-! ## One step -/

/-- A step without a pending transaction changes nothing. -/
theorem step_idle {s : State} (h : s.host = []) : step s = .next s := by simp [step, h]

/-- A step serves the host's next transaction. -/
theorem step_serve {s : State} {t : HostTxn} {rest : List HostTxn} (h : s.host = t :: rest) :
    step s = serve t { s with host := rest } := by simp [step, h]

end Sys2Proof.Machine
end

