-- ==== Sys2Proof/Laws/PerInstr.lean ====
section
/-! SUPPORT. Families of lemmas with one lemma per command. `MaskMatch`: a command's word has its row's match value under
its row's mask (30_encoding R92). -/

namespace Sys2Proof.Laws.MaskMatch

/-- The word of the command fits its row: `(w AND mask) == match`. -/
def Statement (i : Instr) : Prop := encode i &&& i.op.format.mask = i.op.matchWord

theorem nop : Statement (.nop) := mask_z_packWord _ _ _ _ _ _

theorem srst : Statement (.srst) := mask_z_packWord _ _ _ _ _ _

theorem bqInit (inst : Idx) (rs1 : Reg) : Statement (.bqInit inst rs1) := mask_is_packWord _ _ _ _ _ _

theorem bqSetc (inst : Idx) (rs1 : Reg) : Statement (.bqSetc inst rs1) := mask_is_packWord _ _ _ _ _ _

theorem bqProc (inst : Idx) (rd rs1 : Reg) : Statement (.bqProc inst rd rs1) := mask_ids_packWord _ _ _ _ _ _

theorem bqStab (inst : Idx) (rd : Reg) : Statement (.bqStab inst rd) := mask_id_packWord _ _ _ _ _ _

theorem bqDsgn (inst : Idx) (rs1 : Reg) (kind : FilterKind) : Statement (.bqDsgn inst rs1 kind) := mask_ism_packWord _ _ _ _ _ _

theorem bqRd (inst : Idx) (rd : Reg) (field : BqField) : Statement (.bqRd inst rd field) := mask_idm_packWord _ _ _ _ _ _

theorem svfInit (inst : Idx) (rs1 : Reg) (kind : FilterKind) : Statement (.svfInit inst rs1 kind) := mask_ism_packWord _ _ _ _ _ _

theorem svfSetf (inst : Idx) (rs1 : Reg) : Statement (.svfSetf inst rs1) := mask_is_packWord _ _ _ _ _ _

theorem svfSetq (inst : Idx) (rs1 : Reg) : Statement (.svfSetq inst rs1) := mask_is_packWord _ _ _ _ _ _

theorem svfSetsr (inst : Idx) (rs1 : Reg) : Statement (.svfSetsr inst rs1) := mask_is_packWord _ _ _ _ _ _

theorem svfSetg (inst : Idx) (rs1 : Reg) : Statement (.svfSetg inst rs1) := mask_is_packWord _ _ _ _ _ _

theorem svfProc (inst : Idx) (rd rs1 : Reg) : Statement (.svfProc inst rd rs1) := mask_ids_packWord _ _ _ _ _ _

theorem svfRd (inst : Idx) (rd : Reg) (field : SvfField) : Statement (.svfRd inst rd field) := mask_idm_packWord _ _ _ _ _ _

theorem splInit (inst : Idx) (rs1 : Reg) (topo : Topo) : Statement (.splInit inst rs1 topo) := mask_ism_packWord _ _ _ _ _ _

theorem splSetf (inst : Idx) (rs1 : Reg) : Statement (.splSetf inst rs1) := mask_is_packWord _ _ _ _ _ _

theorem splSplit (inst : Idx) (rd rs1 : Reg) : Statement (.splSplit inst rd rs1) := mask_ids_packWord _ _ _ _ _ _

theorem splGain (inst : Idx) (rd rs1 rs2 : Reg) : Statement (.splGain inst rd rs1 rs2) := mask_idss_packWord _ _ _ _ _ _

theorem splRd (inst : Idx) (rd : Reg) (slot field : BitVec 4) : Statement (.splRd inst rd slot field) := mask_idm_packWord _ _ _ _ _ _

theorem envInit (inst : Idx) (rs1 : Reg) (acurve rcurve : CurveSel) : Statement (.envInit inst rs1 acurve rcurve) := mask_ism_packWord _ _ _ _ _ _

theorem envTick (inst : Idx) (rd : Reg) : Statement (.envTick inst rd) := mask_id_packWord _ _ _ _ _ _

theorem envSetrel (inst : Idx) (rs1 : Reg) : Statement (.envSetrel inst rs1) := mask_is_packWord _ _ _ _ _ _

theorem envProg (inst : Idx) (rd : Reg) : Statement (.envProg inst rd) := mask_id_packWord _ _ _ _ _ _

theorem envDur (inst : Idx) (rd : Reg) : Statement (.envDur inst rd) := mask_id_packWord _ _ _ _ _ _

theorem envRd (inst : Idx) (rd : Reg) (field : EnvField) : Statement (.envRd inst rd field) := mask_idm_packWord _ _ _ _ _ _

theorem patDflt (inst : Idx) : Statement (.patDflt inst) := mask_i_packWord _ _ _ _ _ _

theorem patClr (inst : Idx) : Statement (.patClr inst) := mask_i_packWord _ _ _ _ _ _

theorem patEval (inst : Idx) (rd rs1 : Reg) : Statement (.patEval inst rd rs1) := mask_ids_packWord _ _ _ _ _ _

theorem patIns (inst : Idx) (rs1 : Reg) (kind : CurveKind) : Statement (.patIns inst rs1 kind) := mask_ism_packWord _ _ _ _ _ _

theorem patRm (inst : Idx) (rs1 : Reg) : Statement (.patRm inst rs1) := mask_is_packWord _ _ _ _ _ _

theorem patRmpos (inst : Idx) (rd rs1 : Reg) : Statement (.patRmpos inst rd rs1) := mask_ids_packWord _ _ _ _ _ _

theorem patRmrng (inst : Idx) (rd rs1 : Reg) : Statement (.patRmrng inst rd rs1) := mask_ids_packWord _ _ _ _ _ _

theorem patInv (inst : Idx) : Statement (.patInv inst) := mask_i_packWord _ _ _ _ _ _

theorem patRev (inst : Idx) : Statement (.patRev inst) := mask_i_packWord _ _ _ _ _ _

theorem patRdpt (inst : Idx) (rd rs1 : Reg) : Statement (.patRdpt inst rd rs1) := mask_ids_packWord _ _ _ _ _ _

theorem patLen (inst : Idx) (rd : Reg) : Statement (.patLen inst rd) := mask_id_packWord _ _ _ _ _ _

theorem patSclr : Statement (.patSclr) := mask_z_packWord _ _ _ _ _ _

theorem patSpush (rs1 : Reg) (kind : CurveKind) : Statement (.patSpush rs1 kind) := mask_sm_packWord _ _ _ _ _ _

theorem patScommit (inst : Idx) : Statement (.patScommit inst) := mask_i_packWord _ _ _ _ _ _

end Sys2Proof.Laws.MaskMatch
end

