-- ==== Sys2Proof/Laws/Units.lean ====
section
/-! SUPPORT. The shared operations of the units, each with one lemma that says once everything it can do, so that a proof
cites it and does not unfold the operation. -/

namespace Sys2Proof.Machine

/-! ## Register blocks (30_encoding R95) -/

/-- A register outside the block keeps its value. -/
theorem getX_setBlock_of_ne {vs : List U64} {s : State} {rd r : Reg}
    (h : ∀ k, k < vs.length → r ≠ rd + BitVec.ofNat 4 k) : (s.setBlock rd vs).getX r = s.getX r := by
  induction vs generalizing s rd with
  | nil => rfl
  | cons v vs ih =>
    rw [State.setBlock, ih, State.getX_setX, if_neg]
    · simpa using h 0 (by simp)
    · intro k hk he
      refine h (k + 1) (by simpa using hk) ?_
      rw [he, BitVec.add_assoc]
      congr 1
      apply BitVec.eq_of_toNat_eq
      simp
      omega

/-! ## SVF (41_svf R121) -/

/-- Everything a setter can do: a check's fault, nothing, or the new parameter with the coefficients recomputed. -/
theorem svfSetter_cases (s : State) (inst : Idx) (v : F64) (stored : Svf → F64) (store : Svf → F64 → Svf) :
    (∃ c, svfSetter s inst v stored store = .faults c 0) ∨
    ∃ u, inst.toNat < s.cfg.nSvf ∧ bankGet s.svf inst = some u ∧
      ((feq v (stored u) = true ∧ svfSetter s inst v stored store = .completes .ok s) ∨
        (feq v (stored u) = false ∧
          svfSetter s inst v stored store = .completes .ok (s.setSvf inst ((store u v).recompute s.cfg)))) := by
  rcases withSvf_cases s inst (fun u => if feq v (stored u) then .completes .ok s
    else .completes .ok (s.setSvf inst ((store u v).recompute s.cfg))) with ⟨c, h⟩ | ⟨hi, u, hu, h⟩
  · exact .inl ⟨c, h⟩
  · refine .inr ⟨u, hi, hu, ?_⟩
    cases he : feq v (stored u)
    · exact .inr ⟨rfl, by rw [svfSetter, h, he]; rfl⟩
    · exact .inl ⟨rfl, by rw [svfSetter, h, he]; rfl⟩

/-- Recomputing twice is recomputing once. -/
@[simp] theorem Svf.recompute_recompute (c : Cfg) (v : Svf) : (v.recompute c).recompute c = v.recompute c := rfl

/-- A step keeps the coefficients those of the parameters. -/
theorem Svf.recompute_integrate {c : Cfg} {A : Arith} {v : Svf} {t : SvfTaps} (h : v.recompute c = v) :
    (v.integrate A t).recompute c = v.integrate A t :=
  congrArg (Svf.integrate A · t) h

/-- The low shelf's `m0` is 1.0 for a gain that is not a NaN (42_coefficients R143). -/
theorem lowShelfM0_of_not_isNaN (n : NanShelf) {gain : F64} (h : isNaN gain = false) : lowShelfM0 n gain = Const.one :=
  if_neg (by simp [h])

/-! ## Splitter (43_splitter R156, R160) -/

/-- Configuring twice is configuring once. -/
@[simp] theorem configure_configure (c : Cfg) (p : Splitter) : configure c (configure c p) = configure c p := by
  obtain ⟨f1, sr, body⟩ := p
  cases body <;> rfl

/-- A split answers two bands, or three, exactly where the topology is not the dynamic one. -/
theorem splitBands_cases (c : Cfg) (body : SplBody) (x : F64) :
    (body.topo = .dyn3 ∧ splitBands c body x = none) ∨
    ∃ r, splitBands c body x = some r ∧ r.2.topo = body.topo ∧ r.2.f2 = body.f2 ∧
      r.1.length = if isTwoBand body.topo then 2 else 3 := by
  cases body <;> first
    | exact .inl ⟨rfl, rfl⟩
    | exact .inr ⟨_, rfl, rfl, rfl, rfl⟩

/-! ## Envelope (44_envelope R184) -/

/-- A tick whose value comes from a curve: it completes with that one value and envelope, or faults with nothing written. -/
theorem tickWith_cases (s : State) (inst : Idx) (rd : Reg) (r : CurveResult) (shape : F64 → F64) (e : Envelope) :
    (∃ v, r = .ok v ∧ tickWith s inst rd r shape e = .completes .ok ((s.setEnv inst e).setX rd (shape v))) ∨
    ∃ c info, r = .error (c, info) ∧ tickWith s inst rd r shape e = .faults c info := by
  rcases r with ⟨c, info⟩ | v
  · exact .inr ⟨c, info, rfl, rfl⟩
  · exact .inl ⟨v, rfl, rfl⟩

/-- Everything a tick can do. -/
theorem tickEnv_cases (s : State) (inst : Idx) (rd : Reg) (e : Envelope) :
    (e.phase = .complete ∧ tickEnv s inst rd e = .completes .noValue s) ∨
    (e.phase = .delay ∧ tickEnv s inst rd e = .completes .ok
      ((s.setEnv inst { e with delayRem := s.fp.sub e.delayRem Const.one }).setX rd Const.zero)) ∨
    (e.phase = .attack ∧ ∃ v, applyCurve s e.acurve (fractionDone s.fp e.attackRem e.attack) = .ok v ∧
      tickEnv s inst rd e = .completes .ok
        ((s.setEnv inst { e with attackRem := s.fp.sub e.attackRem Const.one }).setX rd v)) ∨
    (e.phase = .release ∧ ∃ v, applyCurve s e.rcurve (fractionDone s.fp e.releaseRem e.release) = .ok v ∧
      tickEnv s inst rd e = .completes .ok
        ((s.setEnv inst { e with releaseRem := s.fp.sub e.releaseRem Const.one }).setX rd (s.fp.sub Const.one v))) ∨
    ((e.phase = .attack ∨ e.phase = .release) ∧ ∃ c info, tickEnv s inst rd e = .faults c info) := by
  unfold tickEnv
  cases hp : e.phase
  · exact .inr (.inl ⟨rfl, rfl⟩)
  · rcases tickWith_cases s inst rd (applyCurve s e.acurve (fractionDone s.fp e.attackRem e.attack)) id
      { e with attackRem := s.fp.sub e.attackRem Const.one } with ⟨v, hv, h⟩ | ⟨c, info, -, h⟩
    · exact .inr (.inr (.inl ⟨rfl, v, hv, h⟩))
    · exact .inr (.inr (.inr (.inr ⟨.inl rfl, c, info, h⟩)))
  · rcases tickWith_cases s inst rd (applyCurve s e.rcurve (fractionDone s.fp e.releaseRem e.release))
      (s.fp.sub Const.one) { e with releaseRem := s.fp.sub e.releaseRem Const.one } with ⟨v, hv, h⟩ | ⟨c, info, -, h⟩
    · exact .inr (.inr (.inr (.inl ⟨rfl, v, hv, h⟩)))
    · exact .inr (.inr (.inr (.inr ⟨.inr rfl, c, info, h⟩)))
  · exact .inl ⟨rfl, rfl⟩

/-- The phase by its counters (10_state R50). -/
theorem Envelope.phase_cases (e : Envelope) :
    (gt e.delayRem Const.zero = true ∧ e.phase = .delay) ∨
    (gt e.delayRem Const.zero = false ∧ gt e.attackRem Const.zero = true ∧ e.phase = .attack) ∨
    (gt e.delayRem Const.zero = false ∧ gt e.attackRem Const.zero = false ∧ gt e.releaseRem Const.zero = true ∧
      e.phase = .release) ∨
    (gt e.delayRem Const.zero = false ∧ gt e.attackRem Const.zero = false ∧ gt e.releaseRem Const.zero = false ∧
      e.phase = .complete) := by
  unfold Envelope.phase
  cases gt e.delayRem Const.zero <;> cases gt e.attackRem Const.zero <;> cases gt e.releaseRem Const.zero <;> simp

/-! ## Patterns (10_state R51, 45_pattern R204, R205, R210, R227) -/

@[simp] theorem Pattern.length_pts (p : Pattern) : p.pts.length = p.count := by simp [Pattern.pts, Pattern.count]

/-- An insertion, on the points. -/
theorem Pattern.pts_insert (p : Pattern) (q : Point) :
    (p.insert q).pts = p.pts.take (1 + insertionPlace p.mid q.x) ++ q :: p.pts.drop (1 + insertionPlace p.mid q.x) := by
  have h : insertionPlace p.mid q.x ≤ p.mid.length := List.countP_le_length
  simp [Pattern.insert, Pattern.pts, Nat.add_comm 1, List.take_append_of_le_length h, List.drop_append_of_le_length h]

/-- The removal of an interior point, on the points. -/
theorem Pattern.pts_removeAt {p : Pattern} {j : Nat} (h : j < p.mid.length) :
    (p.removeAt (j + 1)).pts = p.pts.eraseIdx (j + 1) := by
  simp [Pattern.removeAt, Pattern.pts, List.eraseIdx_append_of_lt_length h]

/-- The least bracketing segment. -/
theorem bracket_eq_some {x : F64} {l : List Point} {n j : Nat} {a b : Point} (h : bracket x n l = some (j, a, b)) :
    n ≤ j ∧ l[j - n]? = some a ∧ l[j - n + 1]? = some b ∧ le a.x x = true ∧ le x b.x = true ∧
      ∀ k c d, k < j - n → l[k]? = some c → l[k + 1]? = some d → ¬ (le c.x x = true ∧ le x d.x = true) := by
  induction l generalizing n with
  | nil => simp [bracket] at h
  | cons p rest ih =>
    cases rest with
    | nil => simp [bracket] at h
    | cons q rest =>
      rw [bracket] at h
      split at h
      · next hc =>
        rw [Bool.and_eq_true] at hc
        cases h
        exact ⟨le_refl _, by simp, by simp, hc.1, hc.2, fun k _ _ hk => by omega⟩
      · next hc =>
        obtain ⟨h1, h2, h3, h4, h5, h6⟩ := ih h
        obtain ⟨m, rfl⟩ : ∃ m, j = n + 1 + m := ⟨j - (n + 1), by omega⟩
        have e1 : n + 1 + m - (n + 1) = m := by omega
        have e2 : n + 1 + m - n = m + 1 := by omega
        rw [e1] at h2 h3 h6
        rw [e2]
        refine ⟨by omega, by simpa using h2, by simpa using h3, h4, h5, fun k c d hk hk1 hk2 => ?_⟩
        cases k with
        | zero =>
          simp only [List.getElem?_cons_zero, Option.some.injEq, List.getElem?_cons_succ] at hk1 hk2
          subst hk1 hk2
          simpa using hc
        | succ k => exact h6 k c d (by omega) (by simpa using hk1) (by simpa using hk2)

/-- No segment brackets the position. -/
theorem bracket_eq_none {x : F64} {l : List Point} {n : Nat} (h : bracket x n l = none) :
    ∀ k c d, l[k]? = some c → l[k + 1]? = some d → ¬ (le c.x x = true ∧ le x d.x = true) := by
  induction l generalizing n with
  | nil => intro k c d hk; simp at hk
  | cons p rest ih =>
    cases rest with
    | nil => intro k c d _ hk; simp at hk
    | cons q rest =>
      rw [bracket] at h
      split at h
      · cases h
      · next hc =>
        intro k c d hk1 hk2
        cases k with
        | zero =>
          simp only [List.getElem?_cons_zero, Option.some.injEq, List.getElem?_cons_succ] at hk1 hk2
          subst hk1 hk2
          simpa using hc
        | succ k => exact ih h k c d (by simpa using hk1) (by simpa using hk2)

/-- Everything evaluating a pattern can do. -/
theorem patEval_cases (c : Cfg) (k : Idx) (p : Pattern) (x : F64) :
    (bracket x 0 p.pts = none ∧ patEval c k p x = .error (.noBracket, noBracketInfo k)) ∨
    ∃ j a b, bracket x 0 p.pts = some (j, a, b) ∧ patEval c k p x = segmentY c k j a b x := by
  unfold patEval
  cases h : bracket x 0 p.pts with
  | none => exact .inl ⟨rfl, rfl⟩
  | some r => exact .inr ⟨_, _, _, rfl, rfl⟩

/-- A pattern built from a list has exactly its points, and is sorted from x = 0 to x = 1. -/
theorem Pattern.ofList_eq_some {l : List Point} {p : Pattern} (h : Pattern.ofList l = some p) :
    p.pts = l ∧ feq p.first.x Const.zero = true ∧ feq p.last.x Const.one = true ∧ xSorted l = true := by
  match l, h with
  | a :: b :: rest, h =>
    simp only [Pattern.ofList] at h
    split at h
    · next hc =>
      simp only [Bool.and_eq_true] at hc
      cases h
      refine ⟨?_, hc.1.1, hc.1.2, hc.2⟩
      have hl : rest.getLastD b = (b :: rest).getLast (by simp) := by cases rest <;> rfl
      simp only [Pattern.pts]
      rw [hl, List.dropLast_append_getLast]
    · cases h

end Sys2Proof.Machine
end

