-- ==== Sys2Proof/Tests/Slice0.lean ====
section
/-! SUPPORT. The model's own tests: well-formedness, the encoding of every command against words written out from
30_encoding, one step of every command against the spec's vectors (95_test_vectors), and, for every statement with
hypotheses, a concrete state and operands that meet them (`witness_` and the statement's name). -/

open Sys2Proof Sys2Proof.Machine

namespace Sys2Proof.Tests

set_option Elab.async false

/-! ## Well-formedness (30_encoding R94) -/

theorem test_wellFormed_dsgn_lowShelf : Instr.wellFormed (.bqDsgn 0 0 .ls) = false := by decide
theorem test_wellFormed_dsgn_highShelf : Instr.wellFormed (.bqDsgn 0 0 .hs) = false := by decide
theorem test_wellFormed_dsgn_allPass : Instr.wellFormed (.bqDsgn 0 0 .ap) = true := by decide
theorem test_wellFormed_splRd_slot9 : Instr.wellFormed (.splRd 0 0 9 0) = false := by decide
theorem test_wellFormed_splRd_slot14 : Instr.wellFormed (.splRd 0 0 14 0) = false := by decide
theorem test_wellFormed_splRd_field13 : Instr.wellFormed (.splRd 0 0 8 13) = false := by decide
theorem test_wellFormed_splRd_config4 : Instr.wellFormed (.splRd 0 0 15 4) = false := by decide
theorem test_wellFormed_splRd_edges :
    Instr.wellFormed (.splRd 0 0 8 12) = true ∧ Instr.wellFormed (.splRd 0 0 15 3) = true := by decide

/-! ## Decoding: each word is opcode, inst, rd, rs1, rs2 nibbles and imm8 (R91), opcodes of R96 -/

theorem test_decode_nop : decode 0x00000000#32 = .ok .nop := by decide
theorem test_decode_srst : decode 0x01000000#32 = .ok .srst := by decide
theorem test_decode_bqInit : decode 0x10205000#32 = .ok (.bqInit 2 5) := by decide
theorem test_decode_bqSetc : decode 0x11104000#32 = .ok (.bqSetc 1 4) := by decide
theorem test_decode_bqProc : decode 0x12098000#32 = .ok (.bqProc 0 9 8) := by decide
theorem test_decode_bqStab : decode 0x13070000#32 = .ok (.bqStab 0 7) := by decide
theorem test_decode_bqDsgn : decode 0x14204001#32 = .ok (.bqDsgn 2 4 .hp) := by decide
theorem test_decode_bqRd : decode 0x15090008#32 = .ok (.bqRd 0 9 .y2) := by decide
theorem test_decode_svfInit : decode 0x20204001#32 = .ok (.svfInit 2 4 .hp) := by decide
theorem test_decode_svfSetf : decode 0x21301000#32 = .ok (.svfSetf 3 1) := by decide
theorem test_decode_svfSetq : decode 0x22301000#32 = .ok (.svfSetq 3 1) := by decide
theorem test_decode_svfSetsr : decode 0x23301000#32 = .ok (.svfSetsr 3 1) := by decide
theorem test_decode_svfSetg : decode 0x24301000#32 = .ok (.svfSetg 3 1) := by decide
theorem test_decode_svfProc : decode 0x25123000#32 = .ok (.svfProc 1 2 3) := by decide
theorem test_decode_svfRd : decode 0x26030005#32 = .ok (.svfRd 0 3 .m2) := by decide
theorem test_decode_splInit : decode 0x30201004#32 = .ok (.splInit 2 1 .dyn3) := by decide
theorem test_decode_splSetf : decode 0x31102000#32 = .ok (.splSetf 1 2) := by decide
theorem test_decode_splSplit : decode 0x32040000#32 = .ok (.splSplit 0 4 0) := by decide
theorem test_decode_splGain : decode 0x33280100#32 = .ok (.splGain 2 8 0 1) := by decide
theorem test_decode_splRd : decode 0x34090027#32 = .ok (.splRd 0 9 2 7) := by decide
theorem test_decode_envInit : decode 0x40000090#32 = .ok (.envInit 0 0 .sine (.pat 1)) := by decide
theorem test_decode_envTick : decode 0x41080000#32 = .ok (.envTick 0 8) := by decide
theorem test_decode_envSetrel : decode 0x42104000#32 = .ok (.envSetrel 1 4) := by decide
theorem test_decode_envProg : decode 0x43190000#32 = .ok (.envProg 1 9) := by decide
theorem test_decode_envDur : decode 0x441A0000#32 = .ok (.envDur 1 10) := by decide
theorem test_decode_envRd : decode 0x451B0006#32 = .ok (.envRd 1 11 .phase) := by decide
theorem test_decode_patDflt : decode 0x50200000#32 = .ok (.patDflt 2) := by decide
theorem test_decode_patClr : decode 0x51000000#32 = .ok (.patClr 0) := by decide
theorem test_decode_patEval : decode 0x52210000#32 = .ok (.patEval 2 1 0) := by decide
theorem test_decode_patIns : decode 0x53004001#32 = .ok (.patIns 0 4 .curve) := by decide
theorem test_decode_patRm : decode 0x54103000#32 = .ok (.patRm 1 3) := by decide
theorem test_decode_patRmpos : decode 0x55020000#32 = .ok (.patRmpos 0 2 0) := by decide
theorem test_decode_patRmrng : decode 0x56020000#32 = .ok (.patRmrng 0 2 0) := by decide
theorem test_decode_patInv : decode 0x57100000#32 = .ok (.patInv 1) := by decide
theorem test_decode_patRev : decode 0x58100000#32 = .ok (.patRev 1) := by decide
theorem test_decode_patRdpt : decode 0x59080000#32 = .ok (.patRdpt 0 8 0) := by decide
theorem test_decode_patLen : decode 0x5A070000#32 = .ok (.patLen 0 7) := by decide
theorem test_decode_patSclr : decode 0x5B000000#32 = .ok .patSclr := by decide
theorem test_decode_patSpush : decode 0x5C004001#32 = .ok (.patSpush 4 .curve) := by decide
theorem test_decode_patScommit : decode 0x5D300000#32 = .ok (.patScommit 3) := by decide

/-- Rejected words of V60, by name. -/
theorem test_decode_rejects :
    decode 0x02000000#32 = .error .reservedOpcode ∧ decode 0xFFFFFFFF#32 = .error .reservedOpcode ∧
    decode 0x00000001#32 = .error .unusedField ∧ decode 0x10000100#32 = .error .unusedField ∧
    decode 0x5C104001#32 = .error .unusedField ∧ decode 0x5B000001#32 = .error .unusedField ∧
    decode 0x14000003#32 = .error .immRange ∧ decode 0x15000009#32 = .error .immRange ∧
    decode 0x2000F005#32 = .error .immRange ∧ decode 0x30000005#32 = .error .immRange ∧
    decode 0x34000090#32 = .error .immRange ∧ decode 0x40000002#32 = .error .immRange ∧
    decode 0x40000070#32 = .error .immRange ∧ decode 0x45000008#32 = .error .immRange ∧
    decode 0x53000008#32 = .error .immRange := by decide

/-! ## States of the tests -/

/-- 0.25. -/
def quarter : F64 := 0x3FD0000000000000#64
/-- 0.75. -/
def threeQuarters : F64 := 0x3FE8000000000000#64
/-- 48000.0. -/
def rate : F64 := 0x40E7700000000000#64

/-- The arithmetic of the default parameters. -/
def plain : Arith := fpOf Cfg.default

/-- The state after an outcome. -/
def after (o : Host.Outcome State Fault Refusal) : State :=
  match o with
  | .next t => t
  | .fault _ => State.reset
  | .refused _ => State.reset

/-- A state with these values in `x0`, `x1`, ... -/
def regs (s : State) (l : List U64) : State := s.setBlock 0 l

/-- The biquad of V10: (0.5, 0.25, 0.125, -0.5, 0.25), zero history. -/
def biquad : Biquad :=
  Biquad.fresh ⟨Const.half, quarter, 0x3FC0000000000000#64, 0xBFE0000000000000#64, quarter⟩

/-- A machine with that biquad as `bq[0]`, and 1.0 in `x0`. -/
def bqState : State := regs (State.reset.setBq 0 biquad) [Const.one]

/-- An SVF at f = +0.0, where every coefficient is exact (42_coefficients R144). -/
def svfOf (kind : FilterKind) : Svf := Svf.fresh Cfg.default kind Const.zero Const.half rate Const.one

/-- A machine with that SVF as `svf[0]`, and 1.0 in `x0`. -/
def svfState (kind : FilterKind) : State := regs (State.reset.setSvf 0 (svfOf kind)) [Const.one]

/-- A machine with a splitter as `spl[0]` at f1 = f2 = +0.0, and 1.0, 2.0, 2.0, 2.0 in `x0` .. `x3`. -/
def splState (topo : Topo) : State :=
  regs (State.reset.setSpl 0 (Splitter.fresh Cfg.default topo Const.zero Const.zero rate))
    [Const.one, Const.two, Const.two, Const.two]

/-- An envelope with these totals and counters, bound to pattern 3. -/
def envOf (d a r d' a' r' : F64) : Envelope := ⟨d, a, r, d', a', r', .pat 3, .pat 3⟩

/-- A machine with an envelope as `env[0]`. -/
def envState (e : Envelope) : State := State.reset.setEnv 0 e

/-- A one-segment pattern of a kind. -/
def patOf (kind : CurveKind) : Pattern :=
  ⟨⟨Const.zero, Const.zero, Const.half, kind⟩, [], ⟨Const.one, Const.one, Const.zero, .curve⟩⟩

/-- The point (0.5, 0.5), tension 0. -/
def middle : Point := ⟨Const.half, Const.half, Const.zero, .curve⟩

/-- A pattern with one interior point. -/
def patThree : Pattern := { Pattern.default with mid := [middle] }

/-- A machine with a pattern as `pat[0]` and as `pat[3]`. -/
def patState (p : Pattern) (l : List U64) : State := regs ((State.reset.setPat 0 p).setPat 3 p) l

/-- A machine with a fault recorded. -/
def faultedState : State := State.reset.raise .uninit 0x12000000#32 0

/-- The machine with one host transaction pending. -/
def pending (s : State) (t : HostTxn) : State := { s with host := [t] }

/-! ## One step of each command -/

/-- `NOP` overwrites the result code (R240). -/
theorem test_nop : (after (exec .nop { State.reset with rc := .noValue })).rc = .ok := by decide
/-- `SRST` while a fault is recorded (R241). -/
theorem test_srst : (after (exec .srst (regs faultedState [1]))).faulted = false ∧
    (after (exec .srst (regs faultedState [1]))).getX 0 = 0 := by decide
/-- R110's example: the identity filter. -/
theorem test_bqInit : (bankGet (after (exec (.bqInit 0 0) (regs State.reset [Const.one]))).bq 0).map (·.b0)
    = some Const.one := by decide
/-- R111: the history stays. -/
theorem test_bqSetc :
    (bankGet (after (exec (.bqSetc 0 1) (State.reset.setBq 0 { biquad with x1 := Const.one }))).bq 0).map
      (fun b => (b.b0, b.x1)) = some (0, Const.one) := by decide
/-- V10, first call: 0.5. -/
theorem test_bqProc_first : (after (exec (.bqProc 0 9 0) bqState)).getX 9 = Const.half := by decide +kernel
/-- V10, second call: 1.0, `x2` and `y2` shifted. -/
theorem test_bqProc_second :
    (after (exec (.bqProc 0 9 0) (after (exec (.bqProc 0 9 0) bqState)))).getX 9 = Const.one := by decide +kernel
/-- R113's example: stable. -/
theorem test_bqStab : (after (exec (.bqStab 0 7) bqState)).getX 7 = 1 := by decide +kernel
/-- V13: a1 = 2.5 is unstable. -/
theorem test_bqStab_unstable :
    (after (exec (.bqStab 0 7) (State.reset.setBq 0 { biquad with a1 := 0x4004000000000000#64 }))).getX 7 = 0 := by
  decide +kernel
/-- R149: at f = 0 a low-pass has b0 = 0, a1 = -2, a2 = 1. -/
theorem test_bqDsgn :
    (bankGet (after (exec (.bqDsgn 0 0 .lp) (regs (State.reset.setBq 0 biquad) [0, Const.half, rate]))).bq 0).map
      (fun b => (b.b0, b.a1, b.a2)) = some (Const.zero, Const.negTwo, Const.one) := by decide +kernel
/-- R115: field 2 is b2. -/
theorem test_bqRd : (after (exec (.bqRd 0 9 .b2) bqState)).getX 9 = 0x3FC0000000000000#64 := by decide
/-- S1: at f = +0 a1 = 1, a2 = a3 = +0, mix (0, 0, 1). -/
theorem test_svfInit :
    (bankGet (after (exec (.svfInit 0 0 .lp) (regs State.reset [0, Const.half, rate, Const.one]))).svf 0).map
      (fun v => (v.a1, v.a2, v.a3, v.m2)) = some (Const.one, Const.zero, Const.zero, Const.one) := by decide +kernel
/-- R122: a new -0.0 equals the stored +0.0, which stays. -/
theorem test_svfSetf :
    (bankGet (after (exec (.svfSetf 0 0) (regs (svfState .lp) [0x8000000000000000#64]))).svf 0).map (·.f)
      = some Const.zero := by decide +kernel
/-- R123: a new Q is stored, the integrators stay. -/
theorem test_svfSetq :
    (bankGet (after (exec (.svfSetq 0 0) (State.reset.setSvf 0 { svfOf .lp with ic1eq := Const.one } |>.setX 0 Const.one))).svf
      0).map (fun v => (v.q, v.ic1eq)) = some (Const.one, Const.one) := by decide +kernel
/-- R124. -/
theorem test_svfSetsr : (bankGet (after (exec (.svfSetsr 0 0) (svfState .lp))).svf 0).map (·.sr) = some Const.one := by
  decide +kernel
/-- R125, R143: gain 4 gives A = 2 and m2 = A·A - 1 = 3. -/
theorem test_svfSetg :
    (bankGet (after (exec (.svfSetg 0 0) (regs (svfState .ls) [0x4010000000000000#64]))).svf 0).map (·.m2)
      = some 0x4008000000000000#64 := by decide +kernel
/-- R143: a unity shelf returns its input. -/
theorem test_svfProc : (after (exec (.svfProc 0 9 0) (svfState .hs))).getX 9 = Const.one := by decide +kernel
/-- R127: field 12 is the kind. -/
theorem test_svfRd : (after (exec (.svfRd 0 3 .kind) (svfState .hs))).getX 3 = 4 := by decide
/-- R155: the second operand of a two-band topology is the sample rate. -/
theorem test_splInit :
    (bankGet (after (exec (.splInit 0 0 .b2x12) (regs State.reset [0, rate]))).spl 0).map (·.sr) = some rate := by decide
/-- R157: the second crossover of a three-band topology. -/
theorem test_splSetf :
    (bankGet (after (exec (.splSetf 0 0) (splState .b3x12))).spl 0).map (fun p => (p.f1, p.body.f2, p.sr))
      = some (Const.one, some Const.two, rate) := by decide
/-- R162: at f = +0 the low band is `ic2eq` = +0 and the inverted high band -1. -/
theorem test_splSplit :
    (after (exec (.splSplit 0 4 0) (splState .b2x12))).getX 4 = Const.zero ∧
    (after (exec (.splSplit 0 4 0) (splState .b2x12))).getX 5 = Const.negOne := by decide +kernel
/-- R160: the dynamic topology does not split. -/
theorem test_splSplit_topology : (after (exec (.splSplit 0 4 0) (splState .dyn3))).cause = some .topology := by decide
/-- R172: an isolating topology has no `apply_gain`. -/
theorem test_splGain_topology : (after (exec (.splGain 0 8 0 1) (splState .b2x12))).cause = some .topology := by decide
/-- R175: slot 15 field 1 is f1. -/
theorem test_splRd : (after (exec (.splRd 0 9 15 1) (splState .b2x12 |>.setX 9 1))).getX 9 = Const.zero := by decide
/-- R175: a two-band topology has no f2, and a slot it does not use is `INDEX`. -/
theorem test_splRd_index : (after (exec (.splRd 0 9 15 2) (splState .b2x12))).rc = .index ∧
    (after (exec (.splRd 0 9 2 0) (splState .b2x12))).rc = .index := by decide
/-- R182's example: 0.001 s at 1000 Hz is 1.0 sample. -/
theorem test_envInit :
    (bankGet (after (exec (.envInit 0 0 .sine .ioSine)
      (regs State.reset [0x3F50624DD2F1A9FC#64, 0, 0, 0x408F400000000000#64]))).env 0).map (fun e => (e.delay, e.rcurve))
      = some (Const.one, .ioSine) := by decide +kernel
/-- V76: an attack tick through the default pattern, three quarters done. -/
theorem test_envTick :
    (after (exec (.envTick 0 8) (envState (envOf 0 0x4010000000000000#64 0 0 Const.one 0)))).getX 8 = threeQuarters := by
  decide +kernel
/-- V77: a fault inside the tick writes nothing but the fault registers. -/
theorem test_envTick_fault :
    (let t := after (exec (.envTick 0 8) ((envState (envOf 0 Const.two 0 0 Const.one 0)).setPat 3 (patOf .pulse)));
      (t.cause, t.faultInfo, (bankGet t.env 0).map (·.attackRem))) = (some .unimplCurve, 0x33#32, some Const.one) := by
  decide +kernel
/-- V74: release 100, counter 50, new duration 200. -/
theorem test_envSetrel :
    (bankGet (after (exec (.envSetrel 0 0) (regs (envState (envOf 0 0 0x4059000000000000#64 0 0 0x4049000000000000#64))
      [0x4069000000000000#64]))).env 0).map (·.releaseRem) = some 0x4059000000000000#64 := by decide +kernel
/-- V74: progress 0.5. -/
theorem test_envProg :
    (after (exec (.envProg 0 9) (envState (envOf 0 0 Const.two 0 0 Const.one)))).getX 9 = Const.half := by decide +kernel
/-- R191: the sum of the totals. -/
theorem test_envDur :
    (after (exec (.envDur 0 9) (envState (envOf Const.half Const.half Const.one 0 0 0)))).getX 9 = Const.two := by
  decide +kernel
/-- R192: the curve selectors as `ENV.INIT` takes them, and the phase. -/
theorem test_envRd :
    (after (exec (.envRd 0 9 .curves) (envState { envOf 0 0 0 0 0 0 with acurve := .sine }))).getX 9 = 0xB0#64 ∧
    (after (exec (.envRd 0 9 .phase) (envState (envOf 0 0 Const.one 0 0 Const.one)))).getX 9 = 2 := by decide +kernel
/-- R200. -/
theorem test_patDflt : (after (exec (.patDflt 0) (patState patThree []))).getPat 0 = Pattern.default := by decide
/-- V41: both points at y = 0.5. -/
theorem test_patClr : ((after (exec (.patClr 0) (patState patThree []))).getPat 0).pts.map (·.y)
    = [Const.half, Const.half] := by decide
/-- V40: the default pattern at 0.25. -/
theorem test_patEval : (after (exec (.patEval 0 1 0) (regs State.reset [quarter]))).getX 1 = quarter := by decide +kernel
/-- V51: no bracket at -0.25 on pattern 2. -/
theorem test_patEval_fault :
    (let t := after (exec (.patEval 2 1 0) (regs State.reset [0xBFD0000000000000#64])); (t.cause, t.faultInfo))
      = (some .noBracket, 0x20#32) := by decide +kernel
/-- R204's example. -/
theorem test_patIns :
    ((after (exec (.patIns 0 0 .curve) (regs State.reset [Const.half, 0x3FE999999999999A#64, Const.half]))).getPat 0).pts.map
      (·.x) = [Const.zero, Const.half, Const.one] := by decide +kernel
/-- V46: x = 1.5 is no point. -/
theorem test_patIns_bad :
    (after (exec (.patIns 0 0 .curve) (regs State.reset [0x3FF8000000000000#64, 0, 0]))).rc = .badPoint := by decide +kernel
/-- R205: index 1 of three goes; index 2 is a boundary. -/
theorem test_patRm :
    ((after (exec (.patRm 0 0) (patState patThree [1]))).getPat 0).count = 2 ∧
    (after (exec (.patRm 0 0) (patState patThree [2]))).rc = .boundary := by decide
/-- R206: an exact match goes. -/
theorem test_patRmpos : (after (exec (.patRmpos 0 2 0) (patState patThree [Const.half, Const.half]))).getX 2 = 1 := by
  decide +kernel
/-- R207: both ends inclusive. -/
theorem test_patRmrng : (after (exec (.patRmrng 0 2 0) (patState patThree [Const.half, Const.half]))).getX 2 = 1 := by
  decide +kernel
/-- R208. -/
theorem test_patInv : ((after (exec (.patInv 0) State.reset)).getPat 0).pts.map (·.y) = [Const.one, Const.zero] := by
  decide +kernel
/-- R209's example, tension and kind of the first segment. -/
theorem test_patRev :
    ((after (exec (.patRev 0) (patState (patOf .sCurve) []))).getPat 0).first
      = ⟨Const.zero, Const.one, 0xBFE0000000000000#64, .sCurve⟩ := by decide +kernel
/-- R228: four registers. -/
theorem test_patRdpt :
    (let t := after (exec (.patRdpt 0 14 0) (patState patThree [1])); (t.getX 14, t.getX 15, t.getX 0, t.getX 1))
      = (Const.half, Const.half, Const.zero, 1) := by decide
/-- R229. -/
theorem test_patLen : (after (exec (.patLen 0 7) (patState patThree []))).getX 7 = 3 := by decide
/-- R225. -/
theorem test_patSclr : (after (exec .patSclr { State.reset with stg := [middle] })).stg = [] := by decide
/-- R226. -/
theorem test_patSpush :
    (after (exec (.patSpush 0 .hold) (regs State.reset [Const.half, Const.half, 0]))).stg
      = [⟨Const.half, Const.half, 0, .hold⟩] := by decide +kernel
/-- R227: unsorted points, and a good list. -/
theorem test_patScommit :
    (after (exec (.patScommit 3) { State.reset with stg := [middle] })).rc = .badPattern ∧
    ((after (exec (.patScommit 3) { State.reset with stg := patThree.pts })).getPat 3) = patThree := by decide +kernel

/-- R253, R254: decode before `valid`, range before the point. -/
theorem test_priority :
    (after (step (pending State.reset (.write 0 0x12000001#32)))).cause = some .illegalCmd ∧
    (after (step (pending State.reset (.write 0 0x12F00000#32)))).cause = some .badInstance ∧
    (after (step (pending State.reset (.write 0 0x12000000#32)))).cause = some .uninit := by decide +kernel

/-- V62: reads of the window after reset. -/
theorem test_window :
    (after (step (pending State.reset (.read 0x14)))).port = .data 0x4D4C5407#32 ∧
    (after (step (pending State.reset (.read 0x18)))).port = .data 0x00077377#32 ∧
    (after (step (pending State.reset (.read 0x20)))).port = .busError := by decide

/-! ## Binary64 corner values (00_scope R11, R12), known IEEE 754 results -/

/-- 0.1 + 0.2 rounds up to 0x3FD3333333333334. -/
theorem test_add_rounds :
    Arith.add plain 0x3FB999999999999A#64 0x3FC999999999999A#64 = 0x3FD3333333333334#64 := by decide +kernel
/-- 1 / 3 is 0x3FD5555555555555. -/
theorem test_div_rounds : Arith.div plain Const.one 0x4008000000000000#64 = 0x3FD5555555555555#64 := by decide +kernel
/-- √2 is 0x3FF6A09E667F3BCD. -/
theorem test_sqrt_rounds : Arith.sqrt plain Const.two = 0x3FF6A09E667F3BCD#64 := by decide +kernel
/-- The largest finite value doubled overflows to infinity. -/
theorem test_mul_overflows : Arith.mul plain 0x7FEFFFFFFFFFFFFF#64 Const.two = Const.posInf := by decide +kernel
/-- Half the smallest subnormal is a tie and goes to zero; under `ftz` a subnormal operand is a zero. -/
theorem test_underflow : Arith.mul plain 1#64 Const.half = Const.zero ∧
    Arith.mul ⟨true, .named⟩ 0x000FFFFFFFFFFFFF#64 Const.two = Const.zero := by decide +kernel

/-! ## Witnesses: for each statement with hypotheses, a state and operands that meet them, clause by clause -/

/-- The outcome is a next state. -/
def runs (o : Host.Outcome State Fault Refusal) : Bool :=
  match o with
  | .next _ => true
  | .fault _ => false
  | .refused _ => false

theorem next_after {o : Host.Outcome State Fault Refusal} (h : runs o = true) : o = .next (after o) := by
  cases o with
  | next t => rfl
  | fault f => cases f
  | refused r => cases h

/-- A word that the decoder rejects selects no command. -/
theorem no_command {w : Word32} {e : Reject} (h : decode w = .error e) : ∀ i, decode w ≠ .ok i := by
  intro i hi
  rw [h] at hi
  cases hi

theorem witness_DecodeOfEncodeIsIdentity :
    WellFormed (.bqInit 15 15) ∧ WellFormed (.splRd 15 15 8 12) ∧ WellFormed (.splRd 15 15 15 3) := by decide
theorem witness_EncodeOfDecodeIsIdentity : decode 0x34FF008C#32 = .ok (.splRd 15 15 8 12) := by decide
theorem witness_IllegalWordRaisesIllegalCmd :
    (pending State.reset (.write 0 0x5E000000#32)).inReset = false ∧
    (pending State.reset (.write 0 0x5E000000#32)).Running ∧
    (pending State.reset (.write 0 0x5E000000#32)).host = [.write 0 0x5E000000#32] ∧
    ∀ i, decode 0x5E000000#32 ≠ .ok i :=
  ⟨rfl, rfl, rfl, no_command (e := .reservedOpcode) (by decide)⟩
theorem witness_StepRunsTheDecodedCommand :
    (pending State.reset (.write 0 0x12098000#32)).inReset = false ∧
    (pending State.reset (.write 0 0x12098000#32)).host = [.write 0 0x12098000#32] ∧
    decode 0x12098000#32 = .ok (.bqProc 0 9 8) ∧ decodeTableWord 32 0x12098000 = some (.bqProc 0 9 8) := by decide
theorem witness_FaultedMachineRefusesCommands :
    faultedState.inReset = false ∧ faultedState.faulted = true ∧
    (pending faultedState (.write 0 0)).host = [.write 0 0] ∧ (0 : Word32) ≠ 0x01000000#32 ∧
    (pending faultedState (.read 0xF8)).host = [.read (0x80 + 8 * (15 : Reg).toNat)] ∧
    (pending faultedState (.read 0xFC)).host = [.read (0x84 + 8 * (15 : Reg).toNat)] ∧
    (pending faultedState (.write 0x80 7)).host = [.write (0x80 + 8 * (0 : Reg).toNat) 7] ∧
    (pending faultedState (.write 0x84 7)).host = [.write (0x84 + 8 * (0 : Reg).toNat) 7] := by decide
theorem witness_FaultsArePrecise :
    bqState.Running ∧ exec (.bqProc 1 9 0) bqState = .next (after (exec (.bqProc 1 9 0) bqState)) ∧
    (after (exec (.bqProc 1 9 0) bqState)).faulted = true ∧ (pending bqState (.write 0 0x5E000000#32)).inReset = false ∧
    (pending bqState (.write 0 0x5E000000#32)).host = [.write 0 0x5E000000#32] ∧
    runs (step (pending bqState (.write 0 0x5E000000#32))) = true ∧
    (after (step (pending bqState (.write 0 0x5E000000#32)))).faulted = true :=
  ⟨rfl, next_after (by decide), by decide, by decide, by decide, by decide, by decide⟩
theorem witness_DecodeRangeAndValidChecksInOrder :
    State.reset.Running ∧ ¬ WellFormed (.bqDsgn 8 0 .ls) ∧
    (WellFormed (.bqInit 8 0) ∧ hasInst (.bqInit 8 0) = true ∧
      unitCount State.reset.cfg (unitOf (.bqInit 8 0)) ≤ (instOf (.bqInit 8 0)).toNat) ∧
    (WellFormed (.envTick 7 0) ∧ hasInst (.envTick 7 0) = true ∧
      (instOf (.envTick 7 0)).toNat < unitCount State.reset.cfg (unitOf (.envTick 7 0)) ∧
      constructs (.envTick 7 0) = false ∧ instValid State.reset (unitOf (.envTick 7 0)) (instOf (.envTick 7 0)) = false) := by
  decide
theorem witness_FaultIsSticky :
    faultedState.faulted = true ∧ faultedState.inReset = false ∧
    step (pending faultedState (.write 0 0)) = .next (after (step (pending faultedState (.write 0 0)))) ∧
    (∀ rest, (pending faultedState (.write 0 0)).host ≠ .write 0 0x01000000#32 :: rest) ∧
    ∀ rest, (pending faultedState (.write 0 0)).host ≠ .resetLine true :: rest :=
  ⟨rfl, rfl, next_after (by decide), fun _ h => by simp [pending] at h, fun _ h => by simp [pending] at h⟩
theorem witness_ErrorCodesChangeOnlyRc :
    State.reset.Running ∧ (after (exec (.patRm 0 0) State.reset)).faulted = false ∧
    (after (exec (.patRm 0 0) State.reset)).rc = .boundary ∧
    (after (exec (.patRdpt 0 0 0) (regs State.reset [2]))).rc = .index ∧
    (after (exec (.envTick 0 0) (envState (envOf 0 0 0 0 0 0)))).rc = .noValue := by decide +kernel
theorem witness_EveryStepKeepsTheInvariant :
    (pending (patState patThree [1]) (.write 0 0x54000000#32)).Inv ∧
    (after (step (pending (patState patThree [1]) (.write 0 0x54000000#32)))).rc = .ok ∧
    runs (step (pending (patState patThree [1]) (.write 0 0x54000000#32))) = true := by decide +kernel
/-- The SVF of the tests holds the coefficients of its parameters. -/
theorem svfState_coherent : (svfState .hs).SvfCoherent := by
  have h : ∀ i, (bankGet (svfState .hs).svf i).all (fun v => v.recompute (svfState .hs).cfg == v) = true := by
    decide +kernel
  intro i v hv
  have hi := h i
  rw [hv] at hi
  exact eq_of_beq hi
theorem witness_EveryStepKeepsSvfCoefficients :
    (svfState .hs).SvfCoherent ∧ (after (exec (.svfSetg 0 1) (svfState .hs))).rc = .ok ∧
    ((bankGet (after (exec (.svfSetg 0 1) (svfState .hs))).svf 0).map (·.gain)) = some Const.zero :=
  ⟨svfState_coherent, by decide +kernel, by decide +kernel⟩
theorem witness_EveryStepKeepsSplitterCoefficients : (splState .dyn3).SplCoherent := by
  have h : ∀ i, (bankGet (splState .dyn3).spl i).all (fun p => configure (splState .dyn3).cfg p == p) = true := by
    decide +kernel
  intro i v hv
  have hi := h i
  rw [hv] at hi
  exact eq_of_beq hi
theorem witness_SrstGivesTheResetState :
    (pending faultedState (.write 0 0x01000000#32)).inReset = false ∧
    (pending faultedState (.write 0 0x01000000#32)).host = [.write 0 0x01000000#32] := by decide
theorem witness_ResetInputResetsAndBlocks :
    (pending faultedState (.resetLine true)).host = [.resetLine true] ∧
    ({ pending State.reset (.read 0x14) with inReset := true }).host = [.read 0x14] ∧
    ({ pending State.reset (.resetLine false) with inReset := true }).inReset = true ∧
    (∀ b, HostTxn.read 0x14 ≠ .resetLine b) ∧ (pending State.reset (.resetLine false)).inReset = false := by decide
theorem witness_BusErrorsChangeNothing :
    (pending State.reset (.oddWidth true 0 .double)).host = [.oddWidth true 0 .double] ∧
    (2 % 4 ≠ 0 ∧ (0x20 ≤ 0x20 ∧ 0x7C ≤ 0x7F) ∧ 0x100 ≤ 0x100) ∧
    (pending State.reset (.read 0x20)).host = [.read 0x20] ∧ (pending State.reset (.write 0x100 1)).host = [.write 0x100 1] ∧
    0x04 ∈ [0x04, 0x08, 0x0C, 0x10, 0x14, 0x18, 0x1C] ∧ (pending State.reset (.write 0x1C 1)).host = [.write 0x1C 1] := by
  decide
theorem witness_ControlRegisterReads :
    legalCfg (pending State.reset (.read 0x18)).cfg = true ∧ (pending State.reset (.read 0)).host = [.read 0] ∧
    (pending State.reset (.read 0x1C)).host = [.read 0x1C] := by decide +kernel
theorem witness_DataRegistersAreTwoWords :
    (pending State.reset (.read 0x80)).inReset = false ∧
    (pending State.reset (.read 0xFC)).host = [.read (0x084 + 8 * (15 : Reg).toNat)] ∧
    ({ State.reset with host := [.write 0xF8 1, .write 0xFC 2] }).host
      = [.write (0x080 + 8 * (15 : Reg).toNat) 1, .write (0x084 + 8 * (15 : Reg).toNat) 2] := by decide
theorem witness_CommandsTouchOnlyTheirInstance :
    Instr.bqProc 0 9 0 ≠ .srst ∧ exec (.bqProc 0 9 0) bqState = .next (after (exec (.bqProc 0 9 0) bqState)) ∧
    (unitOf (.bqProc 0 9 0) ≠ 1 ∨ instOf (.bqProc 0 9 0) ≠ 15) ∧ unitOf (.bqProc 0 9 0) ≠ 5 :=
  ⟨by decide, next_after (by decide +kernel), by decide, by decide⟩
theorem witness_CommandsWriteOnlyTheirDestination :
    Instr.patRdpt 0 14 0 ≠ .srst ∧ runs (exec (.patRdpt 0 14 0) State.reset) = true ∧
    (∀ k, k < destCount (.patRdpt 0 14 0) → (2 : Reg) ≠ fieldRd (encode (.patRdpt 0 14 0)) + BitVec.ofNat 4 k) := by
  decide
theorem witness_NopWritesOnlyRc : State.reset.Running ∧ faultedState.faulted = true := by decide
theorem witness_BiquadCoefficientCommands :
    bqState.Running ∧ (0 : Idx).toNat < bqState.cfg.nBq ∧ (7 : Idx).toNat < bqState.cfg.nBq ∧
    bankGet bqState.bq 0 = some biquad ∧ FilterKind.forBiquad .ap = true := by decide
theorem witness_BiquadProcess :
    bqState.Running ∧ (0 : Idx).toNat < bqState.cfg.nBq ∧ bankGet bqState.bq 0 = some biquad := by decide
theorem witness_BiquadQueries :
    bqState.Running ∧ (0 : Idx).toNat < bqState.cfg.nBq ∧ bankGet bqState.bq 0 = some biquad ∧
    (lt (Machine.abs biquad.a1) Const.two = true ∧
      lt (bqState.fp.sub (Machine.abs biquad.a1) Const.one) biquad.a2 = true ∧ lt biquad.a2 Const.one = true) ∧
    ge (Machine.abs Const.negTwo) Const.two = true ∧ ge Const.one Const.one = true ∧
    isNaN 0x7FF8000000000000#64 = true := by decide +kernel
theorem witness_DefaultStrategies : Cfg.default.bqStrategies = .default ∧ Cfg.default.svfStrategies = .default := by
  decide
theorem witness_SvfConstruction : State.reset.Running ∧ (7 : Idx).toNat < State.reset.cfg.nSvf := by decide
theorem witness_SvfSetters :
    (svfState .hs).Running ∧ (0 : Idx).toNat < (svfState .hs).cfg.nSvf ∧
    bankGet (svfState .hs).svf 0 = some (svfOf .hs) := by decide +kernel
theorem witness_SvfProcess :
    (svfState .lp).Running ∧ (0 : Idx).toNat < (svfState .lp).cfg.nSvf ∧
    bankGet (svfState .lp).svf 0 = some (svfOf .lp) := by decide +kernel
theorem witness_SvfRead :
    (svfState .ap).Running ∧ (0 : Idx).toNat < (svfState .ap).cfg.nSvf ∧
    bankGet (svfState .ap).svf 0 = some (svfOf .ap) := by decide +kernel
theorem witness_UnityShelfIsIdentity :
    (svfState .hs).Running ∧ (0 : Idx).toNat < (svfState .hs).cfg.nSvf ∧
    bankGet (svfState .hs).svf 0 = some (svfOf .hs) ∧ (svfState .hs).SvfCoherent ∧
    (svfState .hs).cfg.svfStrategies = .default ∧ (svfState .hs).cfg.ftz = false ∧ (svfOf .hs).kind = .hs ∧
    (svfOf .hs).gain = Const.one ∧ isFinite ((svfState .hs).fp.div Const.one (svfOf .hs).q) = true ∧
    isFinite ((svfState .hs).getX 0) = true ∧
    isFinite (svfTaps (svfState .hs).fp (svfOf .hs) ((svfState .hs).getX 0)).v1 = true ∧
    isFinite (svfTaps (svfState .hs).fp (svfOf .hs) ((svfState .hs).getX 0)).v2 = true ∧
    exec (.svfProc 0 9 0) (svfState .hs) = .next (after (exec (.svfProc 0 9 0) (svfState .hs))) :=
  ⟨rfl, by decide, by decide +kernel, svfState_coherent, rfl, rfl, rfl, rfl, by decide +kernel, by decide +kernel,
    by decide +kernel, by decide +kernel, next_after (by decide +kernel)⟩
theorem witness_SplitterConstruction : State.reset.Running ∧ (3 : Idx).toNat < State.reset.cfg.nSpl := by decide
/-- A splitter of every topology is there, as its own three fields. -/
theorem witness_SplitterSetFrequencies (topo : Topo) :
    (splState topo).Running ∧ (0 : Idx).toNat < (splState topo).cfg.nSpl ∧
    ∃ body, bankGet (splState topo).spl 0 = some ⟨Const.zero, rate, body⟩ ∧ body.topo = topo := by
  cases topo <;> exact ⟨rfl, by decide, _, rfl, rfl⟩
theorem witness_SplitterSplits :
    (splState .b3x24).Running ∧ (0 : Idx).toNat < (splState .b3x24).cfg.nSpl ∧
    ∃ body, bankGet (splState .b3x24).spl 0 = some ⟨Const.zero, rate, body⟩ := ⟨rfl, by decide, _, rfl⟩
theorem witness_SplitterGain :
    (splState .dyn3).Running ∧ (0 : Idx).toNat < (splState .dyn3).cfg.nSpl ∧
    (∃ body, bankGet (splState .dyn3).spl 0 = some ⟨Const.zero, rate, body⟩) ∧
    ∃ body, bankGet (splState .b2x24).spl 0 = some ⟨Const.zero, rate, body⟩ := ⟨rfl, by decide, ⟨_, rfl⟩, ⟨_, rfl⟩⟩
theorem witness_SplitterRead :
    (splState .b2x24).Running ∧ (0 : Idx).toNat < (splState .b2x24).cfg.nSpl ∧
    (∃ p, bankGet (splState .b2x24).spl 0 = some p ∧ (∃ b, p.body.slots[3]? = some (.bq b)) ∧ p.body.slots[4]? = none) ∧
    (∃ p u, bankGet (splState .dyn3).spl 0 = some p ∧ p.body.slots[1]? = some (.svf u)) ∧
    BqField.imm .y2 = 8 ∧ SvfField.imm .kind = 12 :=
  ⟨rfl, by decide, ⟨_, rfl, ⟨_, rfl⟩, rfl⟩, ⟨_, _, rfl, rfl⟩, rfl, rfl⟩
theorem witness_EqualGainsGiveUnityShelves :
    let s := regs (splState .dyn3) [Const.one, Const.one, Const.one]
    s.Running ∧ (0 : Idx).toNat < s.cfg.nSpl ∧
    (∃ f2 s0 s1, bankGet s.spl 0 = some ⟨Const.zero, rate, .dyn3 f2 s0 s1⟩) ∧
    s.getX 0 = Const.one ∧ s.getX (0 + 1) = Const.one ∧ s.getX (0 + 2) = Const.one ∧ isFinite Const.one = true ∧
    gt Const.one Const.zero = true ∧ s.cfg.elementary = .regular ∧
    isFinite (s.fp.mul Const.twenty (log10F s.fp Const.one)) = true :=
  ⟨rfl, by decide, ⟨_, _, _, rfl⟩, by decide, by decide, by decide, by decide, by decide, rfl, by decide +kernel⟩
theorem witness_FilterCornerCases :
    Cfg.default.elementary = .regular ∧ isZero 0x8000000000000000#64 = true ∧ Cfg.default.svfStrategies = .default ∧
    Cfg.default.bqStrategies = .default ∧ FilterKind.forBiquad .ap = true ∧
    Cfg.default.ftz = false ∧ isFinite rate = true ∧ isZero rate = false ∧ isNaN Const.half = false ∧
    isZero Const.half = false ∧ Cfg.default.nanShelf = .everyCoefficient ∧
    isNaN ({ svfOf .ls with gain := 0x7FF8000000000000#64 }).gain = true := by decide
theorem witness_EnvelopeConstruction :
    State.reset.Running ∧ (7 : Idx).toNat < State.reset.cfg.nEnv ∧
    (∀ k, CurveSel.pat 7 = .pat k ∨ CurveSel.sine = .pat k → k.toNat < State.reset.cfg.nPat) ∧
    (∃ k, (CurveSel.pat 7 = .pat k ∨ CurveSel.sine = .pat k) ∧ ({ Cfg.default with nPat := 7 }).nPat ≤ k.toNat) := by
  decide
/-- The phases' clauses: a delay, an attack that evaluates, an attack that faults, a release that evaluates, a release that
faults, and no counter above zero. -/
theorem witness_EnvelopeTick :
    (envState (envOf 1 0 0 1 0 0)).Running ∧ (0 : Idx).toNat < (envState (envOf 1 0 0 1 0 0)).cfg.nEnv ∧
    bankGet (envState (envOf 1 0 0 1 0 0)).env 0 = some (envOf 1 0 0 1 0 0) ∧ gt (1 : F64) Const.zero = true ∧
    applyCurve (envState (envOf 0 Const.two 0 0 Const.one 0)) (.pat 3) Const.half = .ok Const.half ∧
    applyCurve ((envState (envOf 0 Const.two 0 0 Const.one 0)).setPat 3 (patOf .pulse)) (.pat 3) Const.half
      = .error (.unimplCurve, 0x33) ∧
    Arith.sub plain Const.one (Arith.div plain Const.one Const.two) = Const.half ∧
    ¬ gt Const.zero Const.zero = true := by decide +kernel
theorem witness_EnvelopeSetRelease :
    (envOf 0 0 0 0 0 0).phase = .complete ∧ (envOf 1 0 0 1 0 0).phase = .delay ∧ (envOf 0 1 0 0 1 0).phase = .attack ∧
    ((envOf 0 0 1 0 0 1).phase = .release ∧ feq (1 : F64) 1 = true) ∧
    ((envOf 0 0 0x4059000000000000#64 0 0 0x4049000000000000#64).phase = .release ∧
      feq 0x4049000000000000#64 0x4059000000000000#64 = false) ∧
    (regs (envState (envOf 0 0 0x4059000000000000#64 0 0 0x4049000000000000#64)) [0x4069000000000000#64]).getX 0
      = 0x4069000000000000#64 ∧
    bankGet (envState (envOf 0 0 0 0 0 0)).env 0 = some (envOf 0 0 0 0 0 0) ∧
    (envState (envOf 0 0 0 0 0 0)).Running ∧ (0 : Idx).toNat < (envState (envOf 0 0 0 0 0 0)).cfg.nEnv := by
  decide +kernel
theorem witness_EnvelopeQueries :
    (envState (envOf 1 0 0 1 0 0)).Running ∧ (0 : Idx).toNat < (envState (envOf 1 0 0 1 0 0)).cfg.nEnv ∧
    bankGet (envState (envOf 1 0 0 1 0 0)).env 0 = some (envOf 1 0 0 1 0 0) := by decide +kernel
/-- One delay tick, two attack ticks, one release tick. -/
theorem witness_EnvelopeTickCount :
    let e := envOf Const.one Const.two Const.one Const.one Const.two Const.one
    (envState e).Inv ∧ (envState e).Running ∧
    (∀ k, ∀ q ∈ ((envState e).getPat k).pts, CurveKind.implemented q.kind = true) ∧
    (0 : Idx).toNat < (envState e).cfg.nEnv ∧ bankGet (envState e).env 0 = some e ∧
    isFinite e.delay = true ∧ value e.delay = ((1 : Nat) : Int) * 2 ^ 1074 ∧
    isFinite e.attack = true ∧ value e.attack = ((2 : Nat) : Int) * 2 ^ 1074 ∧
    isFinite e.release = true ∧ value e.release = ((1 : Nat) : Int) * 2 ^ 1074 ∧
    1 < 2 ^ 53 ∧ 2 < 2 ^ 53 ∧ e.delayRem = e.delay ∧ e.attackRem = e.attack ∧ e.releaseRem = e.release := by
  decide +kernel
theorem witness_PhasesOnlyGoForward :
    runs (exec (.envTick 0 0) (envState (envOf Const.one 0 0 Const.one 0 0))) = true ∧
    Instr.envTick 0 0 ≠ .srst ∧ (Op.envTick = .envInit → instOf (.envTick 0 0) ≠ 0) ∧
    (bankGet (envState (envOf Const.one 0 0 Const.one 0 0)).env 0).isSome = true := by decide +kernel
/-- An attack, and a release, of four samples with two to go. -/
theorem witness_PositionsDoNotFall :
    (let e := envOf 0 0x4010000000000000#64 0 0 Const.two 0;
      (envState e).cfg.ftz = false ∧ runs (exec (.envTick 0 0) (envState e)) = true ∧ e.phase = .attack ∧
        (bankGet (after (exec (.envTick 0 0) (envState e))).env 0).map (·.phase) = some .attack ∧
        isFinite e.attack = true ∧ le e.attackRem e.attack = true) ∧
    (let e := envOf 0 0 0x4010000000000000#64 0 0 Const.two;
      (envState e).cfg.ftz = false ∧ runs (exec (.envTick 0 0) (envState e)) = true ∧ e.phase = .release ∧
        (bankGet (after (exec (.envTick 0 0) (envState e))).env 0).map (·.phase) = some .release ∧
        isFinite e.release = true ∧ le e.releaseRem e.release = true) := by decide +kernel
theorem witness_TicksRaiseNoCounter :
    let e := envOf Const.one Const.one Const.one Const.one Const.one Const.one
    runs (exec (.envTick 0 0) (envState e)) = true ∧ bankGet (envState e).env 0 = some e ∧
    (bankGet (after (exec (.envTick 0 0) (envState e))).env 0).isSome = true ∧ le e.delayRem e.delay = true ∧
    le e.attackRem e.attack = true ∧ le e.releaseRem e.release = true := by decide +kernel
theorem witness_WholePatternCommands :
    (patState patThree []).Running ∧ (7 : Idx).toNat < (patState patThree []).cfg.nPat ∧
    0 < ((patState patThree []).getPat 0).pts.length := by decide
theorem witness_ReverseTwice :
    let s := patState patThree []
    s.Running ∧ (0 : Idx).toNat < s.cfg.nPat ∧ runs (exec (.patRev 0) s) = true ∧
    runs (exec (.patRev 0) (after (exec (.patRev 0) s))) = true := by decide +kernel
/-- Every kind of segment at a bracketed position, and a position without a bracket. -/
theorem witness_PatternEvaluation :
    (∀ kind ∈ [CurveKind.hold, .curve, .sCurve, .pulse, .wave, .triangle, .stairs, .smoothStairs],
      let p := patOf kind
      p.pts[0]? = some p.first ∧ p.pts[1]? = some p.last ∧ le p.first.x Const.half = true ∧
        le Const.half p.last.x = true ∧ p.first.kind = kind) ∧
    CurveKind.implemented .pulse = false ∧
    (patState (patOf .hold) [Const.half]).getX 0 = Const.half ∧
    (∀ a ∈ (patOf .hold).pts, ¬ (le a.x Const.negOne = true)) ∧
    (patState (patOf .hold) []).Running ∧ (0 : Idx).toNat < (patState (patOf .hold) []).cfg.nPat := by decide +kernel
theorem witness_CurveFormulas :
    (7 : BitVec 3).toNat < State.reset.cfg.nPat ∧ feq Const.half Const.half = true ∧ feq Const.zero Const.one = false := by
  decide +kernel
theorem witness_UnitIntervalIsBracketed :
    (patState patThree [Const.one]).Inv ∧ (patState patThree [Const.one]).Running ∧
    (0 : Idx).toNat < (patState patThree [Const.one]).cfg.nPat ∧
    (after (exec (.patEval 0 1 0) (patState patThree [Const.two]))).cause = some .noBracket := by decide +kernel
theorem witness_DefaultPatternIsTheIdentity :
    let s := patState Pattern.default [Const.half]
    s.Running ∧ (0 : Idx).toNat < s.cfg.nPat ∧ s.getPat 0 = Pattern.default ∧ s.cfg.curvePwr = .fix ∧
    s.cfg.ftz = false ∧ le Const.zero (s.getX 0) = true ∧ le (s.getX 0) Const.one = true := by decide +kernel
/-- An invalid point (y above 1), a valid one with room, and a full pattern. -/
theorem witness_PatternInsertion :
    State.reset.Running ∧ (0 : Idx).toNat < State.reset.cfg.nPat ∧
    ¬ (le Const.two Const.one = true) ∧
    (le Const.zero Const.half = true ∧ le Const.half Const.one = true ∧ le Const.negOne Const.half = true) ∧
    (State.reset.getPat 0).pts.length ≠ State.reset.cfg.patMaxPts ∧
    (State.reset.getPat 0).pts.length = ({ Cfg.default with patMaxPts := 2 }).patMaxPts := by decide +kernel
/-- A boundary, an index past the end, an interior index, no match and a match. -/
theorem witness_PatternRemoval :
    let p := (patState patThree [1]).getPat 0
    (patState patThree [1]).Running ∧ (0 : Idx).toNat < (patState patThree [1]).cfg.nPat ∧ p.pts.length = 3 ∧
    (0 < 1 ∧ 1 < p.pts.length - 1 ∧ p.pts.length ≤ 3) ∧
    (∀ a ∈ p.mid, ¬ (feq a.x Const.one = true ∧ feq a.y Const.half = true)) ∧
    p.mid[0]? = some middle ∧ feq middle.x Const.half = true ∧ feq middle.y Const.half = true := by decide +kernel
theorem witness_PatternRead :
    let p := ((patState patThree [2]).getPat 0).pts
    (patState patThree [2]).Running ∧ (0 : Idx).toNat < (patState patThree [2]).cfg.nPat ∧
    p[((patState patThree [2]).getX 0).toNat]? = some Pattern.default.last ∧
    p.length ≤ ((patState patThree [3]).getX 0).toNat := by decide +kernel
theorem witness_StagingBuffer :
    State.reset.Running ∧ ¬ (le Const.two Const.one = true) ∧
    (le Const.zero Const.half = true ∧ le Const.half Const.one = true ∧ le Const.negOne Const.half = true) ∧
    State.reset.stg.length ≠ State.reset.cfg.patMaxPts ∧
    ({ State.reset with stg := [middle, middle] }).stg.length = ({ Cfg.default with patMaxPts := 2 }).patMaxPts := by
  decide +kernel
/-- The list of a good commit, and one that is too short. -/
theorem witness_PatternCommit :
    State.reset.Running ∧ (7 : Idx).toNat < State.reset.cfg.nPat ∧
    (2 ≤ patThree.pts.length ∧ patThree.pts[0]? = some Pattern.default.first ∧
      feq Pattern.default.first.x Const.zero = true ∧ patThree.pts[2]? = some Pattern.default.last ∧
      feq Pattern.default.last.x Const.one = true ∧ le Pattern.default.first.x middle.x = true ∧
      le middle.x Pattern.default.last.x = true) ∧
    ¬ 2 ≤ [middle].length := by decide +kernel

end Sys2Proof.Tests
end

section
/-! Family 10_state, part 1. What a command other than `SRST` can do, said once: `Effect` lists the outcomes and
`exec_effect` shows that every command has one of them. The step lemmas of the invariants and the frame of a command are
read off it. -/

namespace Sys2Proof.Machine

/-! ## The parts of a command's word -/

/-- The number of a command's unit, by its constructor. -/
def unitNo : Instr → Nat
  | .nop | .srst => 0
  | .bqInit .. | .bqSetc .. | .bqProc .. | .bqStab .. | .bqDsgn .. | .bqRd .. => 1
  | .svfInit .. | .svfSetf .. | .svfSetq .. | .svfSetsr .. | .svfSetg .. | .svfProc .. | .svfRd .. => 2
  | .splInit .. | .splSetf .. | .splSplit .. | .splGain .. | .splRd .. => 3
  | .envInit .. | .envTick .. | .envSetrel .. | .envProg .. | .envDur .. | .envRd .. => 4
  | .patDflt .. | .patClr .. | .patEval .. | .patIns .. | .patRm .. | .patRmpos .. | .patRmrng .. | .patInv ..
  | .patRev .. | .patRdpt .. | .patLen .. | .patSclr | .patSpush .. | .patScommit .. => 5

theorem unitOf_eq (i : Instr) : unitOf i = unitNo i := by
  cases i <;> simp [unitOf, encode, unitNo, Instr.op, Op.code, Op.row]

/-- The place a command names in its unit; `0` for a command that names none. -/
def placeOf : Instr → Idx
  | .nop | .srst | .patSclr | .patSpush .. => 0
  | .bqInit k .. | .bqSetc k .. | .bqProc k .. | .bqStab k .. | .bqDsgn k .. | .bqRd k .. => k
  | .svfInit k .. | .svfSetf k .. | .svfSetq k .. | .svfSetsr k .. | .svfSetg k .. | .svfProc k .. | .svfRd k .. => k
  | .splInit k .. | .splSetf k .. | .splSplit k .. | .splGain k .. | .splRd k .. => k
  | .envInit k .. | .envTick k .. | .envSetrel k .. | .envProg k .. | .envDur k .. | .envRd k .. => k
  | .patDflt k | .patClr k | .patEval k .. | .patIns k .. | .patRm k .. | .patRmpos k .. | .patRmrng k .. => k
  | .patInv k | .patRev k | .patRdpt k .. | .patLen k .. | .patScommit k => k

theorem instOf_eq (i : Instr) : instOf i = placeOf i := by
  cases i <;> simp [instOf, encode, placeOf]

/-- The first register of a command's destination block; `x0` for a command that has none. -/
def destOf : Instr → Reg
  | .nop | .srst | .bqInit .. | .bqSetc .. | .bqDsgn .. | .svfInit .. | .svfSetf .. | .svfSetq .. | .svfSetsr ..
  | .svfSetg .. | .splInit .. | .splSetf .. | .envInit .. | .envSetrel .. | .patDflt .. | .patClr .. | .patIns ..
  | .patRm .. | .patInv .. | .patRev .. | .patSclr | .patSpush .. | .patScommit .. => 0
  | .bqProc _ rd _ | .bqStab _ rd | .bqRd _ rd _ | .svfProc _ rd _ | .svfRd _ rd _ | .splSplit _ rd _
  | .splGain _ rd _ _ | .splRd _ rd _ _ | .envTick _ rd | .envProg _ rd | .envDur _ rd | .envRd _ rd _
  | .patEval _ rd _ | .patRmpos _ rd _ | .patRmrng _ rd _ | .patRdpt _ rd _ | .patLen _ rd => rd

theorem fieldRd_encode (i : Instr) : fieldRd (encode i) = destOf i := by
  cases i <;> simp [encode, destOf]

/-- The states a command may leave by writing results to its destination block (30_encoding R95, R96). -/
inductive RegWrite (i : Instr) (s : State) : State → Prop where
  | none : RegWrite i s s
  | one {rd : Reg} {v : U64} (hrd : fieldRd (encode i) = rd) (hn : 1 ≤ destCount i) : RegWrite i s (s.setX rd v)
  | block {rd : Reg} {vs : List U64} (hrd : fieldRd (encode i) = rd) (hn : vs.length ≤ destCount i) :
      RegWrite i s (s.setBlock rd vs)

/-- Writing results changes data registers only. -/
theorem RegWrite.frame {i : Instr} {s u : State} (w : RegWrite i s u) : ∃ x, u = { s with x := x } := by
  cases w with
  | none => exact ⟨_, rfl⟩
  | one => exact ⟨_, rfl⟩
  | block => exact ⟨_, State.setBlock_eq _ _ _⟩

/-! ## Where a stored value comes from -/

/-- The SVFs a command may store: one whose coefficients were just computed (41_svf R120, R121), or the stored one with
its integrators advanced (R126). -/
inductive SvfSource (s : State) (inst : Idx) : Svf → Prop where
  | computed {v : Svf} (h : v.recompute s.cfg = v) : SvfSource s inst v
  | integrated {u : Svf} (A : Arith) (t : SvfTaps) (hu : bankGet s.svf inst = some u) :
      SvfSource s inst (u.integrate A t)

/-- The splitters a command may store: one just configured (43_splitter R156), or the stored one after a sample through
its bands (R160) or its shelves (R172). -/
inductive SplSource (s : State) (inst : Idx) : Splitter → Prop where
  | configured {p : Splitter} (h : configure s.cfg p = p) : SplSource s inst p
  | split {p : Splitter} {x : F64} {r : List F64 × SplBody} (hp : bankGet s.spl inst = some p)
      (h : splitBands s.cfg p.body x = some r) : SplSource s inst { p with body := r.2 }
  | gained {p : Splitter} {x gl gm gh : F64} {r : F64 × Splitter} (hp : bankGet s.spl inst = some p)
      (h : applyGain s.cfg p x gl gm gh = some r) : SplSource s inst r.2

/-- The envelopes a command may store: one whose selectors were just checked (44_envelope R182), or one with the
selectors of the stored envelope. -/
inductive EnvSource (s : State) (inst : Idx) : Envelope → Prop where
  | checked {e : Envelope} (h : e.wf s.cfg = true) : EnvSource s inst e
  | carried {e old : Envelope} (ho : bankGet s.env inst = some old) (ha : e.acurve = old.acurve)
      (hr : e.rcurve = old.rcurve) : EnvSource s inst e

/-- The patterns a command may store in the place of `p` (45_pattern R200 to R209, R227). -/
inductive PatEdit (s : State) (p : Pattern) : Pattern → Prop where
  | default : PatEdit s p Pattern.default
  | cleared : PatEdit s p Pattern.cleared
  | inverted : PatEdit s p (p.inverted s.fp)
  | reversed : PatEdit s p (p.reversed s.fp)
  | inserted {q : Point} (hq : q.valid = true) (room : p.count ≠ s.cfg.patMaxPts) : PatEdit s p (p.insert q)
  | thinned {mid : List Point} (h : mid.Sublist p.mid) : PatEdit s p { p with mid := mid }
  | committed {p' : Pattern} (h : Pattern.ofList s.stg = some p') : PatEdit s p p'

/-- The staging buffers a command may leave (45_pattern R225, R226). -/
inductive StagingEdit (s : State) : List Point → Prop where
  | emptied : StagingEdit s []
  | pushed {q : Point} (hq : q.valid = true) (room : s.stg.length ≠ s.cfg.patMaxPts) : StagingEdit s (s.stg ++ [q])

/-! ## The outcomes of a command -/

/-- Everything a command other than `SRST` can do once it runs: a fault, a result code alone, a write of its destination
block, and with it at most one store, to the place its word selects in its own unit. -/
inductive Effect (i : Instr) (s : State) : CmdOutcome → Prop where
  | faults (c : FaultCause) (info : Word32) : Effect i s (.faults c info)
  | code (rc : ResultCode) : Effect i s (.completes rc s)
  | regs {u : State} (w : RegWrite i s u) : Effect i s (.completes .ok u)
  | bq {inst : Idx} {b : Biquad} {u : State} (hu : unitOf i = 1) (hi : instOf i = inst)
      (w : RegWrite i (s.setBq inst b) u) : Effect i s (.completes .ok u)
  | svf {inst : Idx} {v : Svf} {u : State} (hu : unitOf i = 2) (hi : instOf i = inst)
      (w : RegWrite i (s.setSvf inst v) u) (src : SvfSource s inst v) : Effect i s (.completes .ok u)
  | spl {inst : Idx} {p : Splitter} {u : State} (hu : unitOf i = 3) (hi : instOf i = inst)
      (w : RegWrite i (s.setSpl inst p) u) (src : SplSource s inst p) : Effect i s (.completes .ok u)
  | env {inst : Idx} {e : Envelope} {u : State} (hu : unitOf i = 4) (hi : instOf i = inst)
      (w : RegWrite i (s.setEnv inst e) u) (src : EnvSource s inst e) : Effect i s (.completes .ok u)
  | pat {inst : Idx} {p : Pattern} {u : State} (hu : unitOf i = 5) (hi : instOf i = inst)
      (w : RegWrite i (s.setPat inst p) u) (src : PatEdit s (s.getPat inst) p) : Effect i s (.completes .ok u)
  | staging {l : List Point} (hop : i.op = .patSclr ∨ i.op = .patSpush) (src : StagingEdit s l) :
      Effect i s (.completes .ok { s with stg := l })

section checks
variable {i : Instr} {s : State} {inst : Idx}

theorem Effect.checkInst {n : Nat} {k : CmdOutcome} (h : Effect i s k) : Effect i s (checkInst n inst k) := by
  rcases checkInst_cases n inst k with ⟨-, e⟩ | ⟨-, e⟩ <;> rw [e]
  · exact h
  · exact .faults _ _

theorem Effect.withBq {k : Biquad → CmdOutcome} (h : ∀ b, bankGet s.bq inst = some b → Effect i s (k b)) :
    Effect i s (withBq s inst k) := by
  rcases withBq_cases s inst k with ⟨c, e⟩ | ⟨-, b, hb, e⟩ <;> rw [e]
  · exact .faults _ _
  · exact h b hb

theorem Effect.withSvf {k : Svf → CmdOutcome} (h : ∀ v, bankGet s.svf inst = some v → Effect i s (k v)) :
    Effect i s (withSvf s inst k) := by
  rcases withSvf_cases s inst k with ⟨c, e⟩ | ⟨-, v, hv, e⟩ <;> rw [e]
  · exact .faults _ _
  · exact h v hv

theorem Effect.withSpl {k : Splitter → CmdOutcome} (h : ∀ p, bankGet s.spl inst = some p → Effect i s (k p)) :
    Effect i s (withSpl s inst k) := by
  rcases withSpl_cases s inst k with ⟨c, e⟩ | ⟨-, p, hp, e⟩ <;> rw [e]
  · exact .faults _ _
  · exact h p hp

theorem Effect.withEnv {k : Envelope → CmdOutcome} (h : ∀ e, bankGet s.env inst = some e → Effect i s (k e)) :
    Effect i s (withEnv s inst k) := by
  rcases withEnv_cases s inst k with ⟨c, e⟩ | ⟨-, v, hv, e⟩ <;> rw [e]
  · exact .faults _ _
  · exact h v hv

theorem Effect.withPat {k : Pattern → CmdOutcome} (h : Effect i s (k (s.getPat inst))) :
    Effect i s (withPat s inst k) := by
  rcases withPat_cases s inst k with e | ⟨-, e⟩ <;> rw [e]
  · exact .faults _ _
  · exact h

/-- A setter's outcome (41_svf R122 to R125). -/
theorem Effect.svfSetter {v : F64} {stored : Svf → F64} {store : Svf → F64 → Svf} (hu : unitOf i = 2)
    (hi : instOf i = inst) : Effect i s (svfSetter s inst v stored store) := by
  rcases svfSetter_cases s inst v stored store with ⟨c, e⟩ | ⟨u, -, -, ⟨-, e⟩ | ⟨-, e⟩⟩ <;> rw [e]
  · exact .faults _ _
  · exact .code _
  · exact .svf hu hi .none (.computed rfl)

/-- A tick's outcome (44_envelope R184): one counter changes, the selectors stay. -/
theorem Effect.tickEnv {rd : Reg} {e : Envelope} (he : bankGet s.env inst = some e) (hu : unitOf i = 4)
    (hi : instOf i = inst) (hrd : fieldRd (encode i) = rd) (hn : 1 ≤ destCount i) :
    Effect i s (tickEnv s inst rd e) := by
  rcases tickEnv_cases s inst rd e with
    ⟨-, h⟩ | ⟨-, h⟩ | ⟨-, v, -, h⟩ | ⟨-, v, -, h⟩ | ⟨-, c, info, h⟩ <;> rw [h]
  · exact .code _
  · exact .env hu hi (.one hrd hn) (.carried he rfl rfl)
  · exact .env hu hi (.one hrd hn) (.carried he rfl rfl)
  · exact .env hu hi (.one hrd hn) (.carried he rfl rfl)
  · exact .faults _ _

end checks

/-- A release setting keeps both selectors (44_envelope R188). -/
theorem Envelope.setRelease_curves (A : Arith) (e : Envelope) (new : F64) :
    (e.setRelease A new).acurve = e.acurve ∧ (e.setRelease A new).rcurve = e.rcurve := by
  unfold Envelope.setRelease
  cases e.phase
  case release => dsimp only; split <;> exact ⟨rfl, rfl⟩
  all_goals exact ⟨rfl, rfl⟩

/-! ## Every command -/

/-- The command runs as `command` says (refused while a fault is recorded), with an outcome of `Effect`. -/
abbrev HasEffect (i : Instr) (s : State) : Prop := ∃ o, exec i s = command i s o ∧ Effect i s o

section commands
variable (s : State)

theorem execBqDsgn_effect (inst : Idx) (rs1 : Reg) (kind : FilterKind) : HasEffect (.bqDsgn inst rs1 kind) s := by
  refine ⟨_, rfl, ?_⟩
  split
  · exact .withBq fun _ _ => .bq (unitOf_eq _) (instOf_eq _) .none
  · exact .faults _ _

theorem execSplInit_effect (inst : Idx) (rs1 : Reg) (topo : Topo) : HasEffect (.splInit inst rs1 topo) s := by
  refine ⟨_, rfl, .checkInst (.spl (unitOf_eq _) (instOf_eq _) .none (.configured ?_))⟩
  split <;> exact configure_configure ..

theorem execSplSplit_effect (inst : Idx) (rd rs1 : Reg) : HasEffect (.splSplit inst rd rs1) s := by
  refine ⟨_, rfl, .withSpl fun p hp => ?_⟩
  rcases splitBands_cases s.cfg p.body (s.getX rs1) with ⟨-, h⟩ | ⟨r, h, -, -, hlen⟩
  · rw [h]; exact .faults _ _
  · have hle : r.1.length ≤ 3 := by rw [hlen]; split <;> omega
    simp only [h]
    exact .spl (unitOf_eq _) (instOf_eq _) (.block (fieldRd_encode _) hle) (.split hp h)

theorem execSplGain_effect (inst : Idx) (rd rs1 rs2 : Reg) : HasEffect (.splGain inst rd rs1 rs2) s := by
  refine ⟨_, rfl, .withSpl fun p hp => ?_⟩
  split
  · next r h =>
    exact .spl (unitOf_eq _) (instOf_eq _) (.one (fieldRd_encode _) le_rfl) (.gained hp h)
  · exact .faults _ _

theorem execSplRd_effect (inst : Idx) (rd : Reg) (slot field : BitVec 4) : HasEffect (.splRd inst rd slot field) s := by
  refine ⟨_, rfl, ?_⟩
  split
  · refine .withSpl fun p _ => ?_
    split
    · exact .regs (.one (fieldRd_encode _) le_rfl)
    · exact .code _
  · exact .faults _ _

theorem execEnvInit_effect (inst : Idx) (rs1 : Reg) (acurve rcurve : CurveSel) :
    HasEffect (.envInit inst rs1 acurve rcurve) s := by
  refine ⟨_, rfl, .checkInst ?_⟩
  split
  · next h => exact .env (unitOf_eq _) (instOf_eq _) .none (.checked h)
  · exact .faults _ _

theorem execPatEval_effect (inst : Idx) (rd rs1 : Reg) : HasEffect (.patEval inst rd rs1) s := by
  refine ⟨_, rfl, .withPat ?_⟩
  split
  · exact .regs (.one (fieldRd_encode _) le_rfl)
  · exact .faults _ _

theorem execPatIns_effect (inst : Idx) (rs1 : Reg) (kind : CurveKind) : HasEffect (.patIns inst rs1 kind) s := by
  refine ⟨_, rfl, .withPat ?_⟩
  dsimp only
  split
  · exact .code _
  · next hv =>
    split
    · exact .code _
    · next room => exact .pat (unitOf_eq _) (instOf_eq _) .none (.inserted (by simpa using hv) room)

theorem execPatRm_effect (inst : Idx) (rs1 : Reg) : HasEffect (.patRm inst rs1) s := by
  refine ⟨_, rfl, .withPat ?_⟩
  dsimp only
  split
  · exact .code _
  · split
    · exact .code _
    · exact .pat (unitOf_eq _) (instOf_eq _) .none (.thinned (List.eraseIdx_sublist _ _))

theorem execPatRmpos_effect (inst : Idx) (rd rs1 : Reg) : HasEffect (.patRmpos inst rd rs1) s := by
  refine ⟨_, rfl, .withPat ?_⟩
  split
  · exact .regs (.one (fieldRd_encode _) le_rfl)
  · exact .pat (unitOf_eq _) (instOf_eq _) (.one (fieldRd_encode _) le_rfl) (.thinned (List.eraseIdx_sublist _ _))

theorem execPatSpush_effect (rs1 : Reg) (kind : CurveKind) : HasEffect (.patSpush rs1 kind) s := by
  refine ⟨_, rfl, ?_⟩
  dsimp only
  split
  · exact .code _
  · next hv =>
    split
    · exact .code _
    · next room => exact .staging (.inr rfl) (.pushed (by simpa using hv) room)

theorem execPatScommit_effect (inst : Idx) : HasEffect (.patScommit inst) s := by
  refine ⟨_, rfl, .withPat ?_⟩
  split
  · next p h => exact .pat (unitOf_eq _) (instOf_eq _) .none (.committed h)
  · exact .code _

theorem execPatRdpt_effect (inst : Idx) (rd rs1 : Reg) : HasEffect (.patRdpt inst rd rs1) s := by
  refine ⟨_, rfl, .withPat ?_⟩
  split
  · exact .regs (.block (fieldRd_encode _) le_rfl)
  · exact .code _

theorem exec_effect {i : Instr} (hi : i ≠ .srst) : HasEffect i s := by
  cases i with
  | srst => exact absurd rfl hi
  | nop => exact ⟨_, rfl, .code _⟩
  | bqInit inst rs1 => exact ⟨_, rfl, .checkInst (.bq (unitOf_eq _) (instOf_eq _) .none)⟩
  | bqSetc inst rs1 => exact ⟨_, rfl, .withBq fun _ _ => .bq (unitOf_eq _) (instOf_eq _) .none⟩
  | bqProc inst rd rs1 =>
    exact ⟨_, rfl, .withBq fun _ _ =>
      .bq (unitOf_eq _) (instOf_eq _) (.one (fieldRd_encode _) le_rfl)⟩
  | bqStab inst rd => exact ⟨_, rfl, .withBq fun _ _ => .regs (.one (fieldRd_encode _) le_rfl)⟩
  | bqDsgn inst rs1 kind => exact execBqDsgn_effect s inst rs1 kind
  | bqRd inst rd field => exact ⟨_, rfl, .withBq fun _ _ => .regs (.one (fieldRd_encode _) le_rfl)⟩
  | svfInit inst rs1 kind =>
    exact ⟨_, rfl, .checkInst (.svf (unitOf_eq _) (instOf_eq _) .none (.computed rfl))⟩
  | svfSetf inst rs1 => exact ⟨_, rfl, .svfSetter (unitOf_eq _) (instOf_eq _)⟩
  | svfSetq inst rs1 => exact ⟨_, rfl, .svfSetter (unitOf_eq _) (instOf_eq _)⟩
  | svfSetsr inst rs1 => exact ⟨_, rfl, .svfSetter (unitOf_eq _) (instOf_eq _)⟩
  | svfSetg inst rs1 => exact ⟨_, rfl, .svfSetter (unitOf_eq _) (instOf_eq _)⟩
  | svfProc inst rd rs1 =>
    exact ⟨_, rfl, .withSvf fun _ hv =>
      .svf (unitOf_eq _) (instOf_eq _) (.one (fieldRd_encode _) le_rfl) (.integrated _ _ hv)⟩
  | svfRd inst rd field => exact ⟨_, rfl, .withSvf fun _ _ => .regs (.one (fieldRd_encode _) le_rfl)⟩
  | splInit inst rs1 topo => exact execSplInit_effect s inst rs1 topo
  | splSetf inst rs1 =>
    exact ⟨_, rfl, .withSpl fun _ _ =>
      .spl (unitOf_eq _) (instOf_eq _) .none (.configured (configure_configure ..))⟩
  | splSplit inst rd rs1 => exact execSplSplit_effect s inst rd rs1
  | splGain inst rd rs1 rs2 => exact execSplGain_effect s inst rd rs1 rs2
  | splRd inst rd slot field => exact execSplRd_effect s inst rd slot field
  | envInit inst rs1 acurve rcurve => exact execEnvInit_effect s inst rs1 acurve rcurve
  | envTick inst rd =>
    exact ⟨_, rfl, .withEnv fun _ he =>
      .tickEnv he (unitOf_eq _) (instOf_eq _) (fieldRd_encode _) le_rfl⟩
  | envSetrel inst rs1 =>
    refine ⟨_, rfl, .withEnv fun e he => .env (unitOf_eq _) (instOf_eq _) .none ?_⟩
    obtain ⟨ha, hr⟩ := e.setRelease_curves s.fp (s.getX rs1)
    exact .carried he ha hr
  | envProg inst rd => exact ⟨_, rfl, .withEnv fun _ _ => .regs (.one (fieldRd_encode _) le_rfl)⟩
  | envDur inst rd => exact ⟨_, rfl, .withEnv fun _ _ => .regs (.one (fieldRd_encode _) le_rfl)⟩
  | envRd inst rd field => exact ⟨_, rfl, .withEnv fun _ _ => .regs (.one (fieldRd_encode _) le_rfl)⟩
  | patDflt inst => exact ⟨_, rfl, .withPat (.pat (unitOf_eq _) (instOf_eq _) .none .default)⟩
  | patClr inst => exact ⟨_, rfl, .withPat (.pat (unitOf_eq _) (instOf_eq _) .none .cleared)⟩
  | patEval inst rd rs1 => exact execPatEval_effect s inst rd rs1
  | patIns inst rs1 kind => exact execPatIns_effect s inst rs1 kind
  | patRm inst rs1 => exact execPatRm_effect s inst rs1
  | patRmpos inst rd rs1 => exact execPatRmpos_effect s inst rd rs1
  | patRmrng inst rd rs1 =>
    exact ⟨_, rfl, .withPat (.pat (unitOf_eq _) (instOf_eq _) (.one (fieldRd_encode _) le_rfl)
      (.thinned List.filter_sublist))⟩
  | patInv inst => exact ⟨_, rfl, .withPat (.pat (unitOf_eq _) (instOf_eq _) .none .inverted)⟩
  | patRev inst => exact ⟨_, rfl, .withPat (.pat (unitOf_eq _) (instOf_eq _) .none .reversed)⟩
  | patRdpt inst rd rs1 => exact execPatRdpt_effect s inst rd rs1
  | patLen inst rd => exact ⟨_, rfl, .withPat (.regs (.one (fieldRd_encode _) le_rfl))⟩
  | patSclr => exact ⟨_, rfl, .staging (.inl rfl) .emptied⟩
  | patSpush rs1 kind => exact execPatSpush_effect s rs1 kind
  | patScommit inst => exact execPatScommit_effect s inst

end commands

/-- Everything the execution of a command other than `SRST` can do to the state: nothing (refused), a fault's four
registers, or the state of one of its outcomes with the result code. -/
theorem exec_cases {i : Instr} {s t : State} (hi : i ≠ .srst) (h : exec i s = .next t) :
    t = s ∨ (∃ c info, t = s.raise c (encode i) info) ∨
      ∃ rc u, Effect i s (.completes rc u) ∧ t = { u with rc := rc } := by
  obtain ⟨o, hexec, he⟩ := exec_effect s hi
  rw [hexec] at h
  rcases command_cases h with ⟨ht, -⟩ | ⟨-, rc, u, rfl, ht⟩ | ⟨-, c, info, -, ht⟩
  · exact .inl ht
  · exact .inr (.inr ⟨rc, u, he, ht⟩)
  · exact .inr (.inl ⟨c, info, ht⟩)

end Sys2Proof.Machine
end

section
/-! Family 10_state, part 2. What a step can do, packaged once: a property that the resets, the faults and each kind of
store keep is kept by every step. -/

namespace Sys2Proof.Machine

/-- The property does not look at data registers, result code or port, and the faults, the resets and every store a
command can make keep it. -/
structure StepKept (P : State → Prop) : Prop where
  frame : ∀ (s : State) (x : Bank U64) (rc : ResultCode) (host : List HostTxn) (port : PortReply),
    P s → P { s with x := x, rc := rc, host := host, port := port }
  raise : ∀ (s : State) (c : FaultCause) (cmd info : Word32), P s → P (s.raise c cmd info)
  reset : ∀ (s : State) (b : Bool), P s → P { s.afterReset with inReset := b }
  setBq : ∀ (s : State) (k : Idx) (b : Biquad), P s → P (s.setBq k b)
  setSvf : ∀ (s : State) (k : Idx) (v : Svf), SvfSource s k v → P s → P (s.setSvf k v)
  setSpl : ∀ (s : State) (k : Idx) (p : Splitter), SplSource s k p → P s → P (s.setSpl k p)
  setEnv : ∀ (s : State) (k : Idx) (e : Envelope), EnvSource s k e → P s → P (s.setEnv k e)
  setPat : ∀ (s : State) (k : Idx) (p : Pattern), PatEdit s (s.getPat k) p → P s → P (s.setPat k p)
  setStg : ∀ (s : State) (l : List Point), StagingEdit s l → P s → P { s with stg := l }

section
variable {P : State → Prop} (kept : StepKept P) {s t : State}
include kept

theorem StepKept.reply (r : PortReply) (hs : P s) : P (s.reply r) := kept.frame s s.x s.rc s.host r hs

theorem StepKept.regWrite {i : Instr} (w : RegWrite i s t) (hs : P s) : P t := by
  obtain ⟨x, rfl⟩ := w.frame
  exact kept.frame s x s.rc s.host s.port hs

theorem StepKept.effect {i : Instr} {rc : ResultCode} (he : Effect i s (.completes rc t)) (hs : P s) : P t := by
  cases he with
  | code => exact hs
  | regs w => exact kept.regWrite w hs
  | bq _ _ w => exact kept.regWrite w (kept.setBq _ _ _ hs)
  | svf _ _ w src => exact kept.regWrite w (kept.setSvf _ _ _ src hs)
  | spl _ _ w src => exact kept.regWrite w (kept.setSpl _ _ _ src hs)
  | env _ _ w src => exact kept.regWrite w (kept.setEnv _ _ _ src hs)
  | pat _ _ w src => exact kept.regWrite w (kept.setPat _ _ _ src hs)
  | staging _ src => exact kept.setStg _ _ src hs

theorem StepKept.exec {i : Instr} (hs : P s) (h : exec i s = .next t) : P t := by
  by_cases hi : i = .srst
  · subst hi
    obtain rfl := Host.Outcome.next.inj h
    exact kept.frame _ State.reset.x .ok s.host s.port (kept.reset s s.inReset hs)
  · rcases exec_cases hi h with rfl | ⟨c, info, rfl⟩ | ⟨rc, u, he, rfl⟩
    · exact hs
    · exact kept.raise _ _ _ _ hs
    · exact kept.frame u u.x rc u.host u.port (kept.effect he hs)

theorem StepKept.illegalWord {w : Word32} (hs : P s) (h : illegalWord w s = .next t) : P t := by
  by_cases hf : s.faulted = true
  · rw [Machine.illegalWord, if_pos hf] at h
    obtain rfl := Host.Outcome.next.inj h
    exact hs
  · rw [Machine.illegalWord, if_neg hf] at h
    obtain rfl := Host.Outcome.next.inj h
    exact kept.raise _ _ _ _ hs

theorem StepKept.writeCmd {w : Word32} (hs : P s) (h : writeCmd w s = .next t) : P t := by
  unfold Machine.writeCmd at h
  split at h
  · exact kept.exec hs h
  · exact kept.illegalWord hs h

theorem StepKept.writeWord (off : Nat) (w : Word32) (hs : P s) : P (writeWord s off w) := by
  unfold Machine.writeWord
  split
  · exact hs
  · exact kept.frame s _ s.rc s.host s.port hs

theorem StepKept.access {tx : HostTxn} (hs : P s) (h : access tx s = .next t) : P t := by
  cases tx with
  | read off =>
    obtain rfl := Host.Outcome.next.inj h
    exact kept.reply _ hs
  | write off w =>
    simp only [Machine.access] at h
    split at h
    · split at h
      · exact kept.writeCmd (kept.reply _ hs) h
      · obtain rfl := Host.Outcome.next.inj h
        exact kept.reply _ (kept.writeWord off w hs)
    · obtain rfl := Host.Outcome.next.inj h
      exact kept.reply _ hs
  | oddWidth store off width =>
    obtain rfl := Host.Outcome.next.inj h
    exact kept.reply _ hs
  | resetLine b =>
    obtain rfl := Host.Outcome.next.inj h
    exact hs

theorem StepKept.driveReset (b : Bool) (hs : P s) : P (driveReset b s) := by
  unfold Machine.driveReset
  split
  · exact kept.frame _ State.reset.x State.reset.rc s.host .silent (kept.reset s b hs)
  · exact kept.reply _ hs

theorem StepKept.blocked {tx : HostTxn} (hs : P s)
    (h : (if s.inReset then .next (s.reply .silent) else Machine.access tx s) = .next t) : P t := by
  split at h
  · obtain rfl := Host.Outcome.next.inj h
    exact kept.reply _ hs
  · exact kept.access hs h

theorem StepKept.serve {tx : HostTxn} (hs : P s) (h : serve tx s = .next t) : P t := by
  cases tx with
  | resetLine b =>
    obtain rfl := Host.Outcome.next.inj h
    exact kept.driveReset b hs
  | read off => exact kept.blocked hs h
  | write off w => exact kept.blocked hs h
  | oddWidth store off width => exact kept.blocked hs h

/-- Every step keeps the property. -/
theorem StepKept.step (hs : P s) (h : step s = .next t) : P t := by
  cases hh : s.host with
  | nil =>
    rw [step_idle hh] at h
    obtain rfl := Host.Outcome.next.inj h
    exact hs
  | cons tx rest =>
    rw [step_serve hh] at h
    exact kept.serve (kept.frame s s.x s.rc rest s.port hs) h

end

end Sys2Proof.Machine
end

section
/-! Family 10_state, part 3. The SVF coefficients (10_state R45) and the frame of a command (10_state R46). -/

namespace Sys2Proof.Machine

/-- A bank after reset holds nothing constructed. -/
theorem bankGet_replicate_none {α : Type} (k : Idx) (a : α) : bankGet (Vector.replicate 16 none) k ≠ some a := by
  simp

/-- The SVFs a command may store are coherent if the stored ones are. -/
theorem SvfSource.coherent {s : State} {k : Idx} {v : Svf} (src : SvfSource s k v) (hs : s.SvfCoherent) :
    v.recompute s.cfg = v := by
  cases src with
  | computed h => exact h
  | integrated A t hu => exact Svf.recompute_integrate (hs k _ hu)

theorem svfCoherent_stepKept : StepKept State.SvfCoherent where
  frame _ _ _ _ _ hs := hs
  raise _ _ _ _ hs := hs
  reset _ _ _ k v hv := absurd hv (bankGet_replicate_none k v)
  setBq _ _ _ hs := hs
  setSvf s k v src hs i u hu := by
    rw [State.setSvf_svf, bankGet_bankSet] at hu
    split at hu
    · obtain rfl := Option.some.inj hu
      exact src.coherent hs
    · exact hs i u hu
  setSpl _ _ _ _ hs := hs
  setEnv _ _ _ _ hs := hs
  setPat _ _ _ _ hs := hs
  setStg _ _ _ hs := hs

/-- Settles O14: a stored SVF was just computed, or had only its integrators advanced. -/
theorem everyStepKeepsSvfCoefficients : Obligations.EveryStepKeepsSvfCoefficients :=
  fun _ _ hs h => svfCoherent_stepKept.step hs h

/-! ## The frame of a command -/

/-- What `CommandsTouchOnlyTheirInstance` says of the states before and after the command `i`. -/
structure TouchesOnly (i : Instr) (s t : State) : Prop where
  cfg : t.cfg = s.cfg
  inReset : t.inReset = s.inReset
  host : t.host = s.host
  port : t.port = s.port
  bq : ∀ k, unitOf i ≠ 1 ∨ instOf i ≠ k → bankGet t.bq k = bankGet s.bq k
  svf : ∀ k, unitOf i ≠ 2 ∨ instOf i ≠ k → bankGet t.svf k = bankGet s.svf k
  spl : ∀ k, unitOf i ≠ 3 ∨ instOf i ≠ k → bankGet t.spl k = bankGet s.spl k
  env : ∀ k, unitOf i ≠ 4 ∨ instOf i ≠ k → bankGet t.env k = bankGet s.env k
  pat : ∀ k, unitOf i ≠ 5 ∨ instOf i ≠ k → t.getPat k = s.getPat k
  stg : i.op ≠ .patSclr → i.op ≠ .patSpush → t.stg = s.stg

/-- A store to the selected place of the command's own unit leaves every other place. -/
theorem bankGet_bankSet_unselected {α : Type} {i : Instr} {unit : Nat} {inst : Idx} (hu : unitOf i = unit)
    (hi : instOf i = inst) (b : Bank α) (a : α) (k : Idx) (hk : unitOf i ≠ unit ∨ instOf i ≠ k) :
    bankGet (bankSet b inst a) k = bankGet b k :=
  bankGet_bankSet_other b a fun h => hk.elim (· hu) (· (hi.trans h.symm))

section
variable {i : Instr} {s t : State}

theorem TouchesOnly.refl (i : Instr) (s : State) : TouchesOnly i s s :=
  ⟨rfl, rfl, rfl, rfl, fun _ _ => rfl, fun _ _ => rfl, fun _ _ => rfl, fun _ _ => rfl, fun _ _ => rfl, fun _ _ => rfl⟩

/-- Data registers, result code and fault registers are no part of the frame. -/
theorem TouchesOnly.registers (h : TouchesOnly i s t) (x : Bank U64) (rc : ResultCode) (faulted : Bool)
    (cause : Option FaultCause) (cmd info : Word32) :
    TouchesOnly i s
      { t with x := x, rc := rc, faulted := faulted, cause := cause, faultCmd := cmd, faultInfo := info } :=
  ⟨h.cfg, h.inReset, h.host, h.port, h.bq, h.svf, h.spl, h.env, h.pat, h.stg⟩

theorem TouchesOnly.regWrite {u : State} (h : TouchesOnly i s t) (w : RegWrite i t u) : TouchesOnly i s u := by
  obtain ⟨x, rfl⟩ := w.frame
  exact h.registers x t.rc t.faulted t.cause t.faultCmd t.faultInfo

theorem Effect.touchesOnly {rc : ResultCode} (he : Effect i s (.completes rc t)) : TouchesOnly i s t := by
  have self := TouchesOnly.refl i s
  cases he with
  | code => exact self
  | regs w => exact self.regWrite w
  | bq hu hi w =>
    refine .regWrite ?_ w
    exact { self with bq := bankGet_bankSet_unselected hu hi _ _ }
  | svf hu hi w =>
    refine .regWrite ?_ w
    exact { self with svf := bankGet_bankSet_unselected hu hi _ _ }
  | spl hu hi w =>
    refine .regWrite ?_ w
    exact { self with spl := bankGet_bankSet_unselected hu hi _ _ }
  | env hu hi w =>
    refine .regWrite ?_ w
    exact { self with env := bankGet_bankSet_unselected hu hi _ _ }
  | pat hu hi w =>
    refine .regWrite ?_ w
    exact { self with pat := bankGet_bankSet_unselected hu hi _ _ }
  | staging hop =>
    exact { self with stg := fun hc hp => absurd hop (not_or.2 ⟨hc, hp⟩) }

theorem exec_touchesOnly (hi : i ≠ .srst) (h : exec i s = .next t) : TouchesOnly i s t := by
  rcases exec_cases hi h with rfl | ⟨c, info, rfl⟩ | ⟨rc, u, he, rfl⟩
  · exact .refl i _
  · exact (TouchesOnly.refl i s).registers s.x s.rc true (some c) (encode i) info
  · exact he.touchesOnly.registers u.x rc u.faulted u.cause u.faultCmd u.faultInfo

end

/-- Settles O23: the one store of a command goes to the place its word selects in its own unit. -/
theorem commandsTouchOnlyTheirInstance : Obligations.CommandsTouchOnlyTheirInstance := by
  intro i s t hi h
  obtain ⟨hcfg, hin, hhost, hport, hbq, hsvf, hspl, henv, hpat, hstg⟩ := exec_touchesOnly hi h
  exact ⟨hcfg, hin, hhost, hport, hbq, hsvf, hspl, henv, hpat, hstg⟩

end Sys2Proof.Machine
end

section
/-! Family 10_state, part 4. The patterns of the machine's invariant (10_state R53): points in order as a pairwise
relation, the mirror image of the unit interval, and every edit of a pattern. -/

namespace Sys2Proof.Machine

/-! ## The order of values -/

theorem f64_le_total {a b : F64} (ha : isNaN a = false) (hb : isNaN b = false) (h : le a b = false) :
    le b a = true := by
  refine le_iff.2 ⟨hb, ha, ?_⟩
  by_contra hc
  exact absurd (le_iff.2 ⟨ha, hb, by omega⟩) (by simp [h])

theorem feq_iff_le_le {a b : F64} : feq a b = true ↔ le a b = true ∧ le b a = true := by
  rw [feq_iff, le_iff, le_iff]
  constructor
  · rintro ⟨ha, hb, h⟩
    exact ⟨⟨ha, hb, h.le⟩, hb, ha, h.ge⟩
  · rintro ⟨⟨ha, hb, h⟩, -, -, h'⟩
    exact ⟨ha, hb, le_antisymm h h'⟩

@[simp] theorem orderKey_neg (a : F64) : orderKey (neg a) = -orderKey a := by
  unfold orderKey
  cases h : a.msb <;> simp [h]

theorem le_neg_neg {a b : F64} (h : le a b = true) : le (neg b) (neg a) = true := by
  obtain ⟨ha, hb, hk⟩ := le_iff.1 h
  exact le_iff.2 ⟨by simpa using hb, by simpa using ha, by simpa using hk⟩

/-! ## The mirror image `1.0 -. x` of the unit interval -/

theorem one_sub_le_one_sub (A : Arith) {a b : F64} (ha : isFinite a = true) (hb : isFinite b = true)
    (h : le a b = true) : le (A.sub Const.one b) (A.sub Const.one a) = true :=
  sub_anti A (by decide) ha hb h

theorem one_sub_feq (A : Arith) {a b : F64} (ha : isFinite a = true) (hb : isFinite b = true)
    (h : feq a b = true) : feq (A.sub Const.one a) (A.sub Const.one b) = true := by
  obtain ⟨hab, hba⟩ := feq_iff_le_le.1 h
  exact feq_iff_le_le.2 ⟨one_sub_le_one_sub A hb ha hba, one_sub_le_one_sub A ha hb hab⟩

theorem one_sub_one (A : Arith) : A.sub Const.one Const.one = Const.zero := by
  rcases A with ⟨_ | _, _ | _⟩ <;> decide +kernel

theorem one_sub_zero (A : Arith) : A.sub Const.one Const.zero = Const.one := by
  rcases A with ⟨_ | _, _ | _⟩ <;> decide +kernel

theorem inClosed_iff {lo v hi : F64} : inClosed lo v hi = true ↔ le lo v = true ∧ le v hi = true := by
  simp [inClosed]

/-- The tension interval is its own mirror image. -/
theorem neg_mem_tension {v : F64} (h : inClosed Const.negOne v Const.one = true) :
    inClosed Const.negOne (neg v) Const.one = true := by
  obtain ⟨hlo, hhi⟩ := inClosed_iff.1 h
  exact inClosed_iff.2 ⟨le_neg_neg hhi, le_neg_neg hlo⟩

/-! ## Valid points -/

theorem Point.valid_iff {q : Point} : q.valid = true ↔ inClosed Const.zero q.x Const.one = true ∧
    inClosed Const.zero q.y Const.one = true ∧ inClosed Const.negOne q.tension Const.one = true := by
  simp [Point.valid, validPoint, and_assoc]

theorem Point.valid_inverted (A : Arith) {q : Point} (h : q.valid = true) : (q.inverted A).valid = true := by
  obtain ⟨hx, hy, ht⟩ := Point.valid_iff.1 h
  exact Point.valid_iff.2 ⟨hx, one_sub_mem A hy, ht⟩

theorem mirrored_valid (A : Arith) {src shape : Point} (h : src.valid = true) (h' : shape.valid = true) :
    (mirrored A src shape).valid = true := by
  obtain ⟨hx, hy, -⟩ := Point.valid_iff.1 h
  obtain ⟨-, -, ht⟩ := Point.valid_iff.1 h'
  exact Point.valid_iff.2 ⟨one_sub_mem A hx, hy, neg_mem_tension ht⟩

theorem Point.isFinite_x {q : Point} (h : q.valid = true) : isFinite q.x = true :=
  isFinite_of_inClosed (Point.valid_iff.1 h).1

/-! ## Points in order -/

/-- The point does not lie right of the other. -/
def Point.leX (a b : Point) : Prop := le a.x b.x = true

/-- Neighbours in order are all in order: `le` is transitive. -/
theorem xSorted_iff_pairwise {l : List Point} : xSorted l = true ↔ l.Pairwise Point.leX := by
  induction l with
  | nil => simp [xSorted]
  | cons a rest ih =>
    cases rest with
    | nil => simp [xSorted]
    | cons b rest =>
      rw [xSorted, Bool.and_eq_true, ih, List.pairwise_cons (a := a)]
      refine and_congr_left fun hrest => ⟨fun hab q hq => ?_, fun h => h b List.mem_cons_self⟩
      rcases List.mem_cons.1 hq with rfl | hq
      · exact hab
      · exact f64_le_trans hab ((List.pairwise_cons.1 hrest).1 q hq)

/-- Where a property holds of every element before one it holds of, the elements it holds of come first. -/
theorem countP_splits {α : Type} {p : α → Bool} {l : List α} (h : l.Pairwise fun a b => p b = true → p a = true) :
    (∀ a ∈ l.take (l.countP p), p a = true) ∧ ∀ a ∈ l.drop (l.countP p), p a = false := by
  induction l with
  | nil => simp
  | cons a rest ih =>
    obtain ⟨ha, hrest⟩ := List.pairwise_cons.1 h
    obtain ⟨htake, hdrop⟩ := ih hrest
    cases hp : p a with
    | true => simpa [List.countP_cons, hp] using ⟨htake, hdrop⟩
    | false =>
      have hno : ∀ b ∈ rest, p b = false := fun b hb =>
        Bool.eq_false_iff.2 fun hb' => by simpa [hp] using ha b hb hb'
      have hzero : rest.countP p = 0 := List.countP_eq_zero.2 fun b hb => by simp [hno b hb]
      simpa [List.countP_cons, hp, hzero] using hno

/-! ## Well-formed patterns -/

theorem Pattern.wf_iff {c : Cfg} {p : Pattern} : p.wf c = true ↔ p.count ≤ c.patMaxPts ∧
    feq p.first.x Const.zero = true ∧ feq p.last.x Const.one = true ∧ p.pts.Pairwise Point.leX ∧
    ∀ q ∈ p.pts, q.valid = true := by
  simp [Pattern.wf, xSorted_iff_pairwise, and_assoc]

theorem Pattern.mem_pts {p : Pattern} {q : Point} : q ∈ p.pts ↔ q = p.first ∨ q ∈ p.mid ∨ q = p.last := by
  simp [Pattern.pts]

section edits
variable {c : Cfg} {p : Pattern}

theorem Pattern.wf_default (hc : 2 ≤ c.patMaxPts) : Pattern.default.wf c = true := by
  rw [Pattern.wf_iff, ← xSorted_iff_pairwise]
  exact ⟨hc, by decide, by decide, by decide, by decide⟩

theorem Pattern.wf_cleared (hc : 2 ≤ c.patMaxPts) : Pattern.cleared.wf c = true := by
  rw [Pattern.wf_iff, ← xSorted_iff_pairwise]
  exact ⟨hc, by decide, by decide, by decide, by decide⟩

theorem Pattern.wf_thinned {mid : List Point} (h : mid.Sublist p.mid) (hp : p.wf c = true) :
    ({ p with mid := mid } : Pattern).wf c = true := by
  obtain ⟨hn, hfirst, hlast, hsorted, hvalid⟩ := Pattern.wf_iff.1 hp
  have hsub : ({ p with mid := mid } : Pattern).pts.Sublist p.pts := (h.append_right _).cons_cons _
  have hlen := hsub.length_le
  rw [Pattern.length_pts, Pattern.length_pts] at hlen
  exact Pattern.wf_iff.2
    ⟨hlen.trans hn, hfirst, hlast, hsorted.sublist hsub, fun q hq => hvalid q (hsub.subset hq)⟩

theorem Pattern.pts_inverted (A : Arith) : (p.inverted A).pts = p.pts.map (·.inverted A) := by
  simp [Pattern.pts, Pattern.inverted]

theorem Pattern.wf_inverted (A : Arith) (hp : p.wf c = true) : (p.inverted A).wf c = true := by
  obtain ⟨hn, hfirst, hlast, hsorted, hvalid⟩ := Pattern.wf_iff.1 hp
  have hcount : (p.inverted A).count = p.count := by simp [Pattern.count, Pattern.inverted]
  refine Pattern.wf_iff.2 ⟨hcount.le.trans hn, hfirst, hlast, ?_, ?_⟩
  · rw [Pattern.pts_inverted, List.pairwise_map]
    exact hsorted
  · rw [Pattern.pts_inverted, List.forall_mem_map]
    exact fun q hq => Point.valid_inverted A (hvalid q hq)

/-- Mirroring points that fall gives points that rise, whatever the shapes. -/
theorem pairwise_zipWith_mirrored (A : Arith) {l shapes : List Point} (h : l.Pairwise fun a b => Point.leX b a)
    (hv : ∀ a ∈ l, a.valid = true) : (List.zipWith (mirrored A) l shapes).Pairwise Point.leX := by
  induction l generalizing shapes with
  | nil => simp
  | cons a rest ih =>
    cases shapes with
    | nil => simp
    | cons b shapes =>
      obtain ⟨ha, hrest⟩ := List.pairwise_cons.1 h
      obtain ⟨hva, hvrest⟩ := List.forall_mem_cons.1 hv
      refine List.pairwise_cons.2 ⟨fun m hm => ?_, ih hrest hvrest⟩
      rw [← List.map_uncurry_zip_eq_zipWith] at hm
      obtain ⟨⟨src, shape⟩, hmem, rfl⟩ := List.mem_map.1 hm
      have hsrc := (List.of_mem_zip hmem).1
      exact one_sub_le_one_sub A (Point.isFinite_x (hvrest src hsrc)) (Point.isFinite_x hva) (ha src hsrc)

/-- The points a reversed pattern takes tension and kind from (45_pattern R209). -/
def Pattern.shapes (p : Pattern) : List Point :=
  p.mid.getLastD p.first :: ((p.mid.reverse ++ [p.first]).drop 1 ++ [p.last])

theorem Pattern.pts_reversed (A : Arith) :
    (p.reversed A).pts = List.zipWith (mirrored A) p.pts.reverse p.shapes := by
  have hlen : p.mid.reverse.length = ((p.mid.reverse ++ [p.first]).drop 1).length := by simp
  have hrev : p.pts.reverse = p.last :: (p.mid.reverse ++ [p.first]) := by simp [Pattern.pts]
  rw [hrev, Pattern.shapes, List.zipWith_cons_cons, List.zipWith_append hlen]
  rfl

theorem Pattern.shapes_subset {q : Point} (h : q ∈ p.shapes) : q ∈ p.pts := by
  rw [Pattern.mem_pts]
  rcases List.mem_cons.1 h with rfl | h
  · cases hm : p.mid.getLast? with
    | none => simp [List.getLastD_eq_getLast?, hm]
    | some m => simp [List.getLastD_eq_getLast?, hm, List.mem_of_getLast? hm]
  · rcases List.mem_append.1 h with h | h
    · rcases List.mem_append.1 (List.mem_of_mem_drop h) with h | h
      · exact .inr (.inl (List.mem_reverse.1 h))
      · exact .inl (List.mem_singleton.1 h)
    · exact .inr (.inr (List.mem_singleton.1 h))

theorem Pattern.wf_reversed (A : Arith) (hp : p.wf c = true) : (p.reversed A).wf c = true := by
  obtain ⟨hn, hfirst, hlast, hsorted, hvalid⟩ := Pattern.wf_iff.1 hp
  have hcount : (p.reversed A).count = p.count := by simp [Pattern.count, Pattern.reversed]
  have vfirst := Point.isFinite_x (hvalid p.first (Pattern.mem_pts.2 (.inl rfl)))
  have vlast := Point.isFinite_x (hvalid p.last (Pattern.mem_pts.2 (.inr (.inr rfl))))
  have hvrev : ∀ a ∈ p.pts.reverse, a.valid = true := fun a ha => hvalid a (List.mem_reverse.1 ha)
  refine Pattern.wf_iff.2 ⟨hcount.le.trans hn, ?_, ?_, ?_, ?_⟩
  · rw [← one_sub_one A]
    exact one_sub_feq A vlast (by decide) hlast
  · rw [← one_sub_zero A]
    exact one_sub_feq A vfirst (by decide) hfirst
  · rw [Pattern.pts_reversed]
    exact pairwise_zipWith_mirrored A (List.pairwise_reverse.2 hsorted) hvrev
  · rw [Pattern.pts_reversed, ← List.map_uncurry_zip_eq_zipWith, List.forall_mem_map]
    rintro ⟨src, shape⟩ hmem
    obtain ⟨hsrc, hshape⟩ := List.of_mem_zip hmem
    exact mirrored_valid A (hvrev src hsrc) (hvalid shape (Pattern.shapes_subset hshape))

/-- An element put between a part it follows and a part it precedes keeps a list in order. -/
theorem pairwise_put {α : Type} {R : α → α → Prop} {l l' : List α} {q : α} (h : (l ++ l').Pairwise R)
    (hq : ∀ a ∈ l, R a q) (hq' : ∀ a ∈ l', R q a) : (l ++ q :: l').Pairwise R := by
  obtain ⟨hl, hl', hll⟩ := List.pairwise_append.1 h
  refine List.pairwise_append.2 ⟨hl, List.pairwise_cons.2 ⟨hq', hl'⟩, fun a ha => ?_⟩
  exact List.forall_mem_cons.2 ⟨hq a ha, hll a ha⟩

/-- The interior points before the place of an insertion do not lie right of it, and those after it do not lie left. -/
theorem insertionPlace_splits {mid : List Point} {q : Point} (hs : mid.Pairwise Point.leX)
    (hv : ∀ a ∈ mid, a.valid = true) (hq : q.valid = true) :
    (∀ a ∈ mid.take (insertionPlace mid q.x), a.leX q) ∧ ∀ a ∈ mid.drop (insertionPlace mid q.x), q.leX a := by
  obtain ⟨hleft, hright⟩ := countP_splits (p := fun a : Point => le a.x q.x)
    (hs.imp fun hab hb => f64_le_trans hab hb)
  refine ⟨hleft, fun a ha => ?_⟩
  have hva := hv a (List.mem_of_mem_drop ha)
  exact f64_le_total (not_isNaN_of_isFinite (Point.isFinite_x hva)) (not_isNaN_of_isFinite (Point.isFinite_x hq))
    (hright a ha)

theorem Pattern.wf_insert {q : Point} (hq : q.valid = true) (room : p.count ≠ c.patMaxPts) (hp : p.wf c = true) :
    (p.insert q).wf c = true := by
  obtain ⟨hn, hfirst, hlast, hsorted, hvalid⟩ := Pattern.wf_iff.1 hp
  obtain ⟨-, hmid⟩ := List.pairwise_cons.1 hsorted
  obtain ⟨hleft, hright⟩ := insertionPlace_splits (List.pairwise_append.1 hmid).1
    (fun a ha => hvalid a (Pattern.mem_pts.2 (.inr (.inl ha)))) hq
  obtain ⟨hq0, hq1⟩ := inClosed_iff.1 (Point.valid_iff.1 hq).1
  have hfq : p.first.leX q := f64_le_trans (feq_iff_le_le.1 hfirst).1 hq0
  have hql : q.leX p.last := f64_le_trans hq1 (feq_iff_le_le.1 hlast).2
  have hpts : p.pts = (p.first :: p.mid.take (insertionPlace p.mid q.x)) ++
      (p.mid.drop (insertionPlace p.mid q.x) ++ [p.last]) := by
    rw [List.cons_append, ← List.append_assoc, List.take_append_drop, Pattern.pts]
  have hins : (p.insert q).pts = (p.first :: p.mid.take (insertionPlace p.mid q.x)) ++
      q :: (p.mid.drop (insertionPlace p.mid q.x) ++ [p.last]) := by
    simp [Pattern.pts, Pattern.insert]
  have hcount : (p.insert q).count = p.count + 1 := by
    rw [← Pattern.length_pts, ← Pattern.length_pts, hins, hpts]
    simp only [List.length_append, List.length_cons]
    omega
  refine Pattern.wf_iff.2 ⟨by omega, hfirst, hlast, ?_, ?_⟩
  · rw [hins]
    refine pairwise_put (hpts ▸ hsorted) (List.forall_mem_cons.2 ⟨hfq, hleft⟩) fun a ha => ?_
    rcases List.mem_append.1 ha with ha | ha
    · exact hright a ha
    · rw [List.mem_singleton.1 ha]
      exact hql
  · intro a ha
    rw [hins] at ha
    rcases List.mem_append.1 ha with ha | ha
    · exact hvalid a (hpts ▸ List.mem_append_left _ ha)
    · rcases List.mem_cons.1 ha with rfl | ha
      · exact hq
      · exact hvalid a (hpts ▸ List.mem_append_right _ ha)

theorem stagingWf_iff {l : List Point} :
    stagingWf c l = true ↔ l.length ≤ c.patMaxPts ∧ ∀ q ∈ l, q.valid = true := by
  simp [stagingWf]

theorem Pattern.wf_ofList {l : List Point} (hl : stagingWf c l = true) (h : Pattern.ofList l = some p) :
    p.wf c = true := by
  obtain ⟨hn, hvalid⟩ := stagingWf_iff.1 hl
  obtain ⟨hpts, hfirst, hlast, hsorted⟩ := Pattern.ofList_eq_some h
  rw [← hpts] at hn hvalid hsorted
  rw [Pattern.length_pts] at hn
  exact Pattern.wf_iff.2 ⟨hn, hfirst, hlast, xSorted_iff_pairwise.1 hsorted, hvalid⟩

end edits

end Sys2Proof.Machine
end

section
/-! Family 10_state, part 5. The machine's invariant (10_state R53, R54, 60_exceptions R256) over every step, and the
state after reset. -/

namespace Sys2Proof.Machine

theorem State.inv_iff {s : State} : s.Inv ↔ legalCfg s.cfg = true ∧ faultRegistersWf s = true ∧
    (∀ k, (s.getPat k).wf s.cfg = true) ∧ stagingWf s.cfg s.stg = true ∧
    ∀ k e, bankGet s.env k = some e → e.wf s.cfg = true := by
  simp only [State.Inv, State.wf, Bool.and_eq_true, bank_all_iff, Option.all_eq_true, and_assoc, State.getPat]

theorem two_le_patMaxPts {c : Cfg} (h : legalCfg c = true) : 2 ≤ c.patMaxPts := by
  simp only [legalCfg, Bool.and_eq_true, decide_eq_true_eq] at h
  omega

theorem stagingWf_nil (c : Cfg) : stagingWf c [] = true := by simp [stagingWf]

/-- The reset values meet the invariant under every legal configuration. -/
theorem State.inv_afterReset {s : State} (hc : legalCfg s.cfg = true) (b : Bool) :
    { s.afterReset with inReset := b }.Inv := by
  refine State.inv_iff.2 ⟨hc, rfl, fun k => ?_, stagingWf_nil _, fun k e he => ?_⟩
  · exact (congrArg (Pattern.wf s.cfg) (State.getPat_reset k)).trans (Pattern.wf_default (two_le_patMaxPts hc))
  · exact absurd he (bankGet_replicate_none k e)

/-- Every edit of a well-formed pattern under the invariant is well formed. -/
theorem PatEdit.wf {s : State} {p p' : Pattern} (src : PatEdit s p p') (hs : s.Inv) (hp : p.wf s.cfg = true) :
    p'.wf s.cfg = true := by
  obtain ⟨hc, -, -, hstg, -⟩ := State.inv_iff.1 hs
  cases src with
  | default => exact Pattern.wf_default (two_le_patMaxPts hc)
  | cleared => exact Pattern.wf_cleared (two_le_patMaxPts hc)
  | inverted => exact Pattern.wf_inverted s.fp hp
  | reversed => exact Pattern.wf_reversed s.fp hp
  | inserted hq room => exact Pattern.wf_insert hq room hp
  | thinned h => exact Pattern.wf_thinned h hp
  | committed h => exact Pattern.wf_ofList hstg h

theorem StagingEdit.wf {s : State} {l : List Point} (src : StagingEdit s l) (hs : stagingWf s.cfg s.stg = true) :
    stagingWf s.cfg l = true := by
  obtain ⟨hn, hvalid⟩ := stagingWf_iff.1 hs
  cases src with
  | emptied => exact stagingWf_nil _
  | @pushed q hq room =>
    refine stagingWf_iff.2 ⟨?_, List.forall_mem_append.2 ⟨hvalid, List.forall_mem_singleton.2 hq⟩⟩
    rw [List.length_append, List.length_singleton]
    omega

theorem EnvSource.wf {s : State} {k : Idx} {e : Envelope} (src : EnvSource s k e)
    (hs : ∀ k e, bankGet s.env k = some e → e.wf s.cfg = true) : e.wf s.cfg = true := by
  cases src with
  | checked h => exact h
  | carried ho ha hr =>
    rw [Envelope.wf, ha, hr]
    exact hs k _ ho

theorem inv_stepKept : StepKept State.Inv where
  frame _ _ _ _ _ hs := hs
  raise s c cmd info hs := by
    obtain ⟨hc, -, hpat, hstg, henv⟩ := State.inv_iff.1 hs
    exact State.inv_iff.2 ⟨hc, rfl, hpat, hstg, henv⟩
  reset _ b hs := State.inv_afterReset (State.inv_iff.1 hs).1 b
  setBq _ _ _ hs := hs
  setSvf _ _ _ _ hs := hs
  setSpl _ _ _ _ hs := hs
  setEnv s k e src hs := by
    obtain ⟨hc, hfault, hpat, hstg, henv⟩ := State.inv_iff.1 hs
    refine State.inv_iff.2 ⟨hc, hfault, hpat, hstg, fun j f hf => ?_⟩
    rw [State.setEnv_env, bankGet_bankSet] at hf
    split at hf
    · obtain rfl := Option.some.inj hf
      exact src.wf henv
    · exact henv j f hf
  setPat s k p src hs := by
    obtain ⟨hc, hfault, hpat, hstg, henv⟩ := State.inv_iff.1 hs
    refine State.inv_iff.2 ⟨hc, hfault, fun j => ?_, hstg, henv⟩
    rw [State.getPat, State.setPat_pat, bankGet_bankSet]
    split
    · exact src.wf hs (hpat k)
    · exact hpat j
  setStg s l src hs := by
    obtain ⟨hc, hfault, hpat, hstg, henv⟩ := State.inv_iff.1 hs
    exact State.inv_iff.2 ⟨hc, hfault, hpat, src.wf hstg, henv⟩

/-- Settles O13: each kind of store keeps the invariant, so every step does. -/
theorem everyStepKeepsTheInvariant : Obligations.EveryStepKeepsTheInvariant :=
  fun _ _ hs h => inv_stepKept.step hs h

/-! ## The state after reset -/

/-- Settles O16: the reset values meet the invariant under the default parameters, and no SVF or splitter is
constructed. -/
theorem resetStateHasTheInvariants : Obligations.ResetStateHasTheInvariants := by
  have hlegal : legalCfg State.reset.cfg = true := by decide
  exact ⟨State.inv_afterReset (s := State.reset) hlegal false,
    fun k v hv => absurd hv (bankGet_replicate_none k v), fun k p hp => absurd hp (bankGet_replicate_none k p)⟩

/-- Settles O17: the sixteen places of each bank hold the reset value, and the control words are computed. -/
theorem resetValues : Obligations.ResetValues :=
  ⟨State.getX_reset, by decide, by decide, rfl, rfl, rfl, by decide, by decide,
    bankGet_replicate none, bankGet_replicate none, bankGet_replicate none, bankGet_replicate none,
    fun k => congrArg Pattern.pts (State.getPat_reset k), rfl⟩

end Sys2Proof.Machine
end

section
/-! Family 10_state, part 6. A tick's counters (10_state R49). -/

namespace Sys2Proof.Machine

/-- Flushing does not raise a value that is not below zero. -/
theorem orderKey_flush_le (A : Arith) {a : F64} (h : 0 ≤ orderKey a) : orderKey (A.flush a) ≤ orderKey a := by
  rcases flush_cases A a with e | ⟨-, e⟩ <;> rw [e]
  rw [orderKey_ofSignMag _ (by decide)]
  split <;> simpa using h

theorem orderKey_zero : orderKey Const.zero = 0 := by decide

/-- The only infinity above zero is `+inf`. -/
theorem eq_posInf {a : F64} (hinf : isInf a = true) (hpos : gt a Const.zero = true) : a = Const.posInf := by
  have hm : mag a = infMag := by simpa [isInf] using hinf
  have hk : orderKey Const.zero < orderKey a := (lt_iff.1 hpos).2.2
  have hsign : a.msb = false := by
    by_contra hs
    rw [orderKey_zero, orderKey, if_pos (by simpa using hs)] at hk
    omega
  exact f64_ext hsign hm

/-- `a -. 1.0` is not above a counter `a` that is above zero, also under flushing and at the infinity. -/
theorem sub_one_le (A : Arith) {a : F64} (hpos : gt a Const.zero = true) : le (A.sub a Const.one) a = true := by
  obtain ⟨-, hnan, hk⟩ := lt_iff.1 hpos
  cases hf : isFinite a with
  | false =>
    have hinf : isInf a = true := by
      have hle := not_isNaN_iff.1 hnan
      simp only [isFinite, decide_eq_false_iff_not, not_lt] at hf
      simpa [isInf] using le_antisymm hle hf
    rw [eq_posInf hinf hpos]
    rcases A with ⟨_ | _, _ | _⟩ <;> decide +kernel
  | true =>
    have hpos' : 0 ≤ orderKey a := orderKey_zero ▸ hk.le
    have hone : isFinite Const.one = true := by decide
    obtain ⟨hn, e, hkey⟩ := sub_finite A hf hone
    have hflush := isNaN_flush A hnan
    have hvalue : 0 ≤ value (A.flush Const.one) := by rcases A with ⟨_ | _, _ | _⟩ <;> decide +kernel
    have hexact : keyOf (value (A.flush a) - value (A.flush Const.one)) ≤ orderKey (A.flush a) := by
      rw [← keyOf_value hflush]
      exact keyOf_mono (by omega)
    refine le_iff.2 ⟨hn, hnan, ?_⟩
    rw [e]
    calc orderKey (A.flush (sumOf .sub (A.flush a) (neg (A.flush Const.one))))
        ≤ orderKey (A.flush a) := orderKey_flush_mono A (by
          rw [hkey]
          exact hexact.trans (orderKey_flush_le A hpos'))
      _ ≤ orderKey a := orderKey_flush_le A hpos'

/-- The envelopes a tick of `e` may store: one counter, above zero, less 1.0 (44_envelope R184). -/
inductive Ticked (A : Arith) (e : Envelope) : Envelope → Prop where
  | delay (h : gt e.delayRem Const.zero = true) : Ticked A e { e with delayRem := A.sub e.delayRem Const.one }
  | attack (h : gt e.attackRem Const.zero = true) : Ticked A e { e with attackRem := A.sub e.attackRem Const.one }
  | release (h : gt e.releaseRem Const.zero = true) : Ticked A e { e with releaseRem := A.sub e.releaseRem Const.one }

/-- The counter of the current phase is above zero (10_state R50). -/
theorem Envelope.counter_of_phase (e : Envelope) :
    (e.phase = .delay → gt e.delayRem Const.zero = true) ∧ (e.phase = .attack → gt e.attackRem Const.zero = true) ∧
    (e.phase = .release → gt e.releaseRem Const.zero = true) := by
  rcases e.phase_cases with ⟨h, hp⟩ | ⟨-, h, hp⟩ | ⟨-, -, h, hp⟩ | ⟨-, -, -, hp⟩
  · simp [hp, h]
  · simp [hp, h]
  · simp [hp, h]
  · simp [hp]

/-- A completing tick leaves the envelopes, or stores the ticked one in its own place. -/
theorem tickEnv_env {s u : State} {inst : Idx} {rd : Reg} {e : Envelope} {rc : ResultCode}
    (h : tickEnv s inst rd e = .completes rc u) :
    u.env = s.env ∨ ∃ f, Ticked s.fp e f ∧ u.env = bankSet s.env inst (some f) := by
  obtain ⟨hdelay, hattack, hrelease⟩ := e.counter_of_phase
  rcases tickEnv_cases s inst rd e with
    ⟨-, ho⟩ | ⟨hp, ho⟩ | ⟨hp, v, -, ho⟩ | ⟨hp, v, -, ho⟩ | ⟨-, c, info, ho⟩ <;> cases ho.symm.trans h
  · exact .inl rfl
  · exact .inr ⟨_, .delay (hdelay hp), rfl⟩
  · exact .inr ⟨_, .attack (hattack hp), rfl⟩
  · exact .inr ⟨_, .release (hrelease hp), rfl⟩

/-- What `ENV.TICK` leaves in its own place: the envelope as it was, or the ticked one. -/
theorem envTick_ticked {s t : State} {inst : Idx} {rd : Reg} {e f : Envelope}
    (h : exec (.envTick inst rd) s = .next t) (he : bankGet s.env inst = some e) (hf : bankGet t.env inst = some f) :
    f = e ∨ Ticked s.fp e f := by
  have same : t.env = s.env → f = e := fun hsame =>
    Option.some.inj (hf.symm.trans (hsame ▸ he))
  have hcommand : command (.envTick inst rd) s (withEnv s inst (tickEnv s inst rd)) = .next t := h
  rcases command_cases hcommand with ⟨rfl, -⟩ | ⟨-, rc, u, hu, rfl⟩ | ⟨-, c, info, -, rfl⟩
  · exact .inl (same rfl)
  · rcases withEnv_cases s inst (tickEnv s inst rd) with ⟨c, hout⟩ | ⟨-, e', he', hout⟩
    · cases hout.symm.trans hu
    · obtain rfl := Option.some.inj (he'.symm.trans he)
      rcases tickEnv_env (hout.symm.trans hu) with hsame | ⟨g, hg, hstore⟩
      · exact .inl (same hsame)
      · have hget : bankGet u.env inst = some g := by rw [hstore, bankGet_bankSet_same]
        obtain rfl := Option.some.inj (hget.symm.trans hf)
        exact .inr hg
  · exact .inl (same rfl)

/-- The totals of `f` are those of `e`, and none of its counters is above that of `e`. -/
structure NoCounterRaised (e f : Envelope) : Prop where
  delay : f.delay = e.delay
  attack : f.attack = e.attack
  release : f.release = e.release
  delayRem : le f.delayRem e.delayRem = true
  attackRem : le f.attackRem e.attackRem = true
  releaseRem : le f.releaseRem e.releaseRem = true

section
variable {e f : Envelope} (hd : le e.delayRem e.delay = true) (ha : le e.attackRem e.attack = true)
  (hr : le e.releaseRem e.release = true)
include hd ha hr

/-- A counter at or below its total is no NaN, so it is at or below itself. -/
theorem NoCounterRaised.refl : NoCounterRaised e e :=
  ⟨rfl, rfl, rfl, f64_le_refl (le_iff.1 hd).1, f64_le_refl (le_iff.1 ha).1, f64_le_refl (le_iff.1 hr).1⟩

theorem Ticked.noCounterRaised {A : Arith} (h : Ticked A e f) : NoCounterRaised e f := by
  have self := NoCounterRaised.refl hd ha hr
  cases h with
  | delay hpos => exact { self with delayRem := sub_one_le A hpos }
  | attack hpos => exact { self with attackRem := sub_one_le A hpos }
  | release hpos => exact { self with releaseRem := sub_one_le A hpos }

end

/-- Settles O48: a tick takes 1.0 off one counter above zero, which does not raise it. -/
theorem ticksRaiseNoCounter : Obligations.TicksRaiseNoCounter := by
  intro s t inst rd e f h he hf hd ha hr
  have raised : NoCounterRaised e f := by
    rcases envTick_ticked h he hf with rfl | ticked
    · exact .refl hd ha hr
    · exact ticked.noCounterRaised hd ha hr
  refine ⟨raised.delay, raised.attack, raised.release, raised.delayRem, raised.attackRem, raised.releaseRem, ?_, ?_, ?_⟩
  · rw [raised.delay]
    exact f64_le_trans raised.delayRem hd
  · rw [raised.attack]
    exact f64_le_trans raised.attackRem ha
  · rw [raised.release]
    exact f64_le_trans raised.releaseRem hr

end Sys2Proof.Machine
end

section
/-! Family 10_state, part 7. The host port: the write of a command word (10_state R35) and the reads of the control
registers (R36 to R41). -/

namespace Sys2Proof.Machine

section port
variable {s : State} (hin : s.inReset = false)
include hin

/-- A write to `CMD` is the command transaction, answered. -/
theorem serve_write_cmd (w : Word32) : serve (.write 0 w) s = writeCmd w (s.reply .written) := by
  simp [serve, access, hin, mapped]

/-- A read of a mapped offset answers its word and changes nothing else. -/
theorem serve_read {off : Nat} (h : mapped off = true) :
    serve (.read off) s = .next (s.reply (.data (readWord s off))) := by
  simp [serve, access, hin, h]

end port

theorem writeCmd_of_decode {w : Word32} {i : Instr} (h : decode w = .ok i) (s : State) :
    writeCmd w s = exec i s := by rw [writeCmd, h]

theorem decode_of_tableWord {nbits w : Nat} {i : Instr} (h : decodeTableWord nbits w = some i) :
    decode (BitVec.ofNat 32 (w % 2 ^ nbits)) = .ok i := by
  unfold decodeTableWord at h
  split at h
  · next hd => rw [hd, Option.some.inj h]
  · cases h

/-- Settles O6: the step serves the write to `CMD`, whose word decodes to the command. -/
theorem stepRunsTheDecodedCommand : Obligations.StepRunsTheDecodedCommand := by
  have run : ∀ (s : State) (w : Word32) (i : Instr) (rest : List HostTxn), s.inReset = false →
      s.host = .write 0 w :: rest → decode w = .ok i → step s = exec i { s with host := rest, port := .written } := by
    intro s w i rest hin hhost hdecode
    rw [step_serve hhost, serve_write_cmd (s := { s with host := rest }) hin, writeCmd_of_decode hdecode]
    rfl
  refine ⟨run, fun s nbits w i hin htable => ?_⟩
  exact run (s.withFetchWord nbits w) _ i s.host hin rfl (decode_of_tableWord htable)

/-! ## Control register words as numbers -/

/-- Fields side by side, as a number. -/
theorem toNat_append_eq {m n : Nat} (a : BitVec m) (b : BitVec n) : (a ++ b).toNat = a.toNat * 2 ^ n + b.toNat := by
  rw [BitVec.toNat_append, ← Nat.shiftLeft_add_eq_or_of_lt b.isLt, Nat.shiftLeft_eq]

theorem statusWord_eq (s : State) :
    statusWord s = BitVec.ofNat 32 ((if s.faulted then 1 else 0) + 16 * s.rc.code.toNat) := by
  unfold statusWord
  cases s.faulted <;> cases s.rc <;> decide

theorem cfg0Word_eq {c : Cfg} (h : legalCfg c = true) : cfg0Word c = BitVec.ofNat 32 ((c.nBq - 1)
    + 0x10 * (c.nSvf - 1) + 0x100 * (c.nSpl - 1) + 0x1000 * (c.nEnv - 1) + 0x10000 * (c.nPat - 1)) := by
  simp only [legalCfg, Bool.and_eq_true, decide_eq_true_eq] at h
  apply BitVec.eq_of_toNat_eq
  simp only [cfg0Word, toNat_append_eq, BitVec.toNat_ofNat]
  omega

theorem cfg1Word_eq {c : Cfg} (h : legalCfg c = true) : cfg1Word c = BitVec.ofNat 32 (c.patMaxPts
    + 0x10000 * (if c.spl324Invert then 1 else 0) + 0x20000 * (if c.ftz then 1 else 0)
    + 0x40000 * (if c.curvePwr = .doc then 1 else 0)) := by
  simp only [legalCfg, Bool.and_eq_true, decide_eq_true_eq] at h
  apply BitVec.eq_of_toNat_eq
  have bit : ∀ b : Bool, b.toNat = if b = true then 1 else 0 := by decide
  have bit_le : ∀ (p : Prop) [Decidable p], (if p then 1 else 0) ≤ 1 := fun p _ => by split <;> decide
  have hpwr := bit_le (c.curvePwr = .doc)
  have hftz := bit_le (c.ftz = true)
  have hinvert := bit_le (c.spl324Invert = true)
  simp only [cfg1Word, toNat_append_eq, BitVec.toNat_ofNat, BitVec.toNat_ofBool, bit, beq_iff_eq]
  omega

/-- Settles O21: each control register is a mapped offset, and its word as a number is the sum of its fields. -/
theorem controlRegisterReads : Obligations.ControlRegisterReads := by
  intro s rest hin hcfg off v hread hhost
  suffices hv : mapped off = true ∧ readWord { s with host := rest } off = v by
    rw [step_serve hhost, serve_read (s := { s with host := rest }) hin hv.1, hv.2]
    rfl
  rcases hread with ⟨rfl, rfl⟩ | ⟨rfl, rfl⟩ | ⟨rfl, rfl⟩ | ⟨rfl, rfl⟩ |
    ⟨rfl, rfl⟩ | ⟨rfl, rfl⟩ | ⟨rfl, rfl⟩ | ⟨rfl, rfl⟩
  · exact ⟨rfl, rfl⟩
  · refine ⟨rfl, (statusWord_eq s).trans ?_⟩
    cases s.rc <;> rfl
  · refine ⟨rfl, (rfl : _ = faultWord s).trans ?_⟩
    unfold faultWord
    cases s.cause with
    | none => rfl
    | some c => cases c <;> rfl
  · exact ⟨rfl, rfl⟩
  · exact ⟨rfl, rfl⟩
  · exact ⟨rfl, rfl⟩
  · exact ⟨rfl, cfg0Word_eq hcfg⟩
  · exact ⟨rfl, cfg1Word_eq hcfg⟩

end Sys2Proof.Machine
end

section
/-! Family 20_memory. The offsets of the window that answer a bus error (20_memory R74), the writes the read-only
registers ignore (R75), and the two words of a data register (R72). -/

namespace Sys2Proof.Machine

section port
variable {s : State} (hin : s.inReset = false)
include hin

theorem serve_oddWidth (store : Bool) (off : Nat) (width : OddWidth) :
    serve (.oddWidth store off width) s = .next (s.reply .busError) := by
  simp [serve, access, hin]

theorem serve_read_unmapped {off : Nat} (h : mapped off = false) :
    serve (.read off) s = .next (s.reply .busError) := by
  simp [serve, access, hin, h]

theorem serve_write_unmapped {off : Nat} (h : mapped off = false) (w : Word32) :
    serve (.write off w) s = .next (s.reply .busError) := by
  simp [serve, access, hin, h]

/-- A write to a mapped offset other than `CMD` stores its word and is answered. -/
theorem serve_write {off : Nat} (h : mapped off = true) (hcmd : off ≠ 0) (w : Word32) :
    serve (.write off w) s = .next ((writeWord s off w).reply .written) := by
  simp [serve, access, hin, h, hcmd]

end port

theorem mapped_eq_false_iff {off : Nat} :
    mapped off = false ↔ off % 4 ≠ 0 ∨ (0x20 ≤ off ∧ off ≤ 0x7F) ∨ 0x100 ≤ off := by
  simp only [mapped, Bool.and_eq_false_iff, Bool.or_eq_false_iff, beq_eq_false_iff_ne, decide_eq_false_iff_not]
  omega

/-- Below the data registers a write stores nothing (20_memory R75). -/
theorem writeWord_control {off : Nat} (h : off < 0x80) (s : State) (w : Word32) : writeWord s off w = s :=
  if_pos h

/-- Settles O20: the erroneous offsets are the unmapped ones, and a read-only register is a mapped offset below the data
registers. -/
theorem busErrorsChangeNothing : Obligations.BusErrorsChangeNothing := by
  intro s rest hin
  have released : State.inReset { s with host := rest } = false := hin
  refine ⟨fun store off width hhost => ?_, fun off hoff => ?_, fun off v hoff hhost => ?_⟩
  · exact (step_serve hhost).trans (serve_oddWidth released store off width)
  · have unmapped := mapped_eq_false_iff.2 hoff
    exact ⟨fun hhost => (step_serve hhost).trans (serve_read_unmapped released unmapped),
      fun v hhost => (step_serve hhost).trans (serve_write_unmapped released unmapped v)⟩
  · have readOnly : ∀ o ∈ [0x04, 0x08, 0x0C, 0x10, 0x14, 0x18, 0x1C], mapped o = true ∧ o ≠ 0 ∧ o < 0x80 := by decide
    obtain ⟨hmapped, hcmd, hlow⟩ := readOnly off hoff
    rw [step_serve hhost, serve_write released hmapped hcmd, writeWord_control hlow]
    rfl

/-! ## The two words of a data register -/

theorem bankSet_bankSet {α : Type} (b : Bank α) (i : BitVec 4) (a a' : α) :
    bankSet (bankSet b i a) i a' = bankSet b i a' :=
  bank_ext fun j => by by_cases h : j = i <;> simp [bankGet_bankSet, h]

/-- The offset of one half of a data register (20_memory R72). -/
def halfOffset (high : Bool) (r : Reg) : Nat := (if high then 0x084 else 0x080) + 8 * r.toNat

/-- One half of a data register. -/
def halfOf (high : Bool) (v : U64) : Word32 := if high then v.extractLsb' 32 32 else v.extractLsb' 0 32

section half
variable (high : Bool) (r : Reg)

theorem halfOffset_ge : 0x80 ≤ halfOffset high r := by
  cases high <;> simp [halfOffset]; omega

theorem mapped_halfOffset : mapped (halfOffset high r) = true := by
  have hr := r.isLt
  cases high <;> simp [halfOffset, mapped] <;> omega

@[simp] theorem windowReg_halfOffset : windowReg (halfOffset high r) = r := by
  have hr := r.isLt
  apply BitVec.eq_of_toNat_eq
  cases high <;> simp [halfOffset, windowReg]
  omega

@[simp] theorem windowHigh_halfOffset : windowHigh (halfOffset high r) = high := by
  cases high <;> simp [halfOffset, windowHigh]

theorem readWord_halfOffset (s : State) : readWord s (halfOffset high r) = halfOf high (s.getX r) := by
  simp [readWord, Nat.not_lt.2 (halfOffset_ge high r), halfOf]

theorem writeWord_halfOffset (s : State) (w : Word32) :
    writeWord s (halfOffset high r) w = s.setX r (replaceHalf high (s.getX r) w) := by
  simp [writeWord, Nat.not_lt.2 (halfOffset_ge high r)]

/-- The second write leaves the half the first one stored. -/
theorem replaceHalf_both (v : U64) (w w' : Word32) :
    replaceHalf (!high) (replaceHalf high v w) w' = if high then w ++ w' else w' ++ w := by
  cases high with
  | false => exact congrArg (w' ++ ·) BitVec.extractLsb'_append_eq_right
  | true => exact congrArg (· ++ w') BitVec.extractLsb'_append_eq_left

variable {r high} {s : State} {rest : List HostTxn} (hin : s.inReset = false)
include hin

theorem step_read_half (hhost : s.host = .read (halfOffset high r) :: rest) :
    step s = .next { s with host := rest, port := .data (halfOf high (s.getX r)) } := by
  rw [step_serve hhost, serve_read (s := { s with host := rest }) hin (mapped_halfOffset high r), readWord_halfOffset]
  rfl

theorem step_write_half {w : Word32} (hhost : s.host = .write (halfOffset high r) w :: rest) :
    step s = .next { s with
      host := rest, port := .written, x := bankSet s.x r (replaceHalf high (s.getX r) w) } := by
  have hcmd : halfOffset high r ≠ 0 := Nat.ne_zero_of_lt (halfOffset_ge high r)
  rw [step_serve hhost, serve_write (s := { s with host := rest }) hin (mapped_halfOffset high r) hcmd,
    writeWord_halfOffset]
  rfl

theorem step_write_both_halves {w w' : Word32}
    (hhost : s.host = .write (halfOffset high r) w :: .write (halfOffset (!high) r) w' :: rest) :
    ∃ t, step s = .next t ∧ step t = .next { s with
      host := rest, port := .written, x := bankSet s.x r (if high then w ++ w' else w' ++ w) } := by
  refine ⟨_, step_write_half hin hhost, (step_write_half (high := !high) ?released rfl).trans ?_⟩
  case released => exact hin
  simp only [State.getX, bankGet_bankSet_same, replaceHalf_both, bankSet_bankSet]

end half

/-- Settles O22: each clause is the read or the write of one half, at its offset. -/
theorem dataRegistersAreTwoWords : Obligations.DataRegistersAreTwoWords := by
  intro s rest r hin
  refine ⟨step_read_half (high := false) hin, step_read_half (high := true) hin,
    fun _ => step_write_half (high := false) hin, fun _ => step_write_half (high := true) hin, ?_⟩
  rintro lo hi (lowFirst | highFirst)
  · exact step_write_both_halves (high := false) hin lowFirst
  · exact step_write_both_halves (high := true) hin highFirst

end Sys2Proof.Machine
end

section
/-! Family 30_encoding, part 1. The round trip of the command words (30_encoding R91 to R97): what each stage of the
decoder accepts, said once, and the encoder read back field by field. -/

namespace Sys2Proof

/-! ## The selector check (R97 step 3) -/

section inRange
variable {α : Type} {o : Option α} {k : α → Instr}

@[simp] theorem inRange_some (a : α) (k : α → Instr) : inRange (some a) k = .ok (k a) := rfl

theorem inRange_eq_ok {i : Instr} : inRange o k = .ok i ↔ ∃ a, o = some a ∧ k a = i := by
  cases o <;> simp [inRange]

/-- A selector is never the reason for a reserved opcode. -/
theorem inRange_ne_reservedOpcode : inRange o k ≠ .error .reservedOpcode := by
  cases o <;> simp [inRange]

end inRange

/-! ## The mask check (R92, R97 step 2) -/

/-- The word that has this opcode and agrees with `w` in the fields the format uses, every other field zero. -/
def Format.restrict (f : Format) (code : BitVec 8) (w : Word32) : Word32 :=
  match f with
  | .z => packWord code 0 0 0 0 0
  | .i => packWord code (fieldInst w) 0 0 0 0
  | .id => packWord code (fieldInst w) (fieldRd w) 0 0 0
  | .is => packWord code (fieldInst w) 0 (fieldRs1 w) 0 0
  | .ids => packWord code (fieldInst w) (fieldRd w) (fieldRs1 w) 0 0
  | .idss => packWord code (fieldInst w) (fieldRd w) (fieldRs1 w) (fieldRs2 w) 0
  | .ism => packWord code (fieldInst w) 0 (fieldRs1 w) 0 (fieldImm w)
  | .idm => packWord code (fieldInst w) (fieldRd w) 0 0 (fieldImm w)
  | .sm => packWord code 0 0 (fieldRs1 w) 0 (fieldImm w)

/-- A packed word that passes the mask check has zeros in the fields its format does not use. -/
theorem restrict_packWord {f : Format} {code o : BitVec 8} {i : Idx} {d a b : Reg} {m : BitVec 8}
    (h : packWord o i d a b m &&& f.mask = packWord code 0 0 0 0 0) :
    f.restrict code (packWord o i d a b m) = packWord o i d a b m := by
  cases f
  case z => exact h.symm.trans (mask_z_packWord ..)
  case' i => obtain ⟨rfl, -, rfl, rfl, rfl, rfl⟩ := packWord_inj ((mask_i_packWord ..).symm.trans h)
  case' id => obtain ⟨rfl, -, -, rfl, rfl, rfl⟩ := packWord_inj ((mask_id_packWord ..).symm.trans h)
  case' is => obtain ⟨rfl, -, rfl, -, rfl, rfl⟩ := packWord_inj ((mask_is_packWord ..).symm.trans h)
  case' ids => obtain ⟨rfl, -, -, -, rfl, rfl⟩ := packWord_inj ((mask_ids_packWord ..).symm.trans h)
  case' idss => obtain ⟨rfl, -, -, -, -, rfl⟩ := packWord_inj ((mask_idss_packWord ..).symm.trans h)
  case' ism => obtain ⟨rfl, -, rfl, -, rfl, -⟩ := packWord_inj ((mask_ism_packWord ..).symm.trans h)
  case' idm => obtain ⟨rfl, -, -, rfl, rfl, -⟩ := packWord_inj ((mask_idm_packWord ..).symm.trans h)
  case' sm => obtain ⟨rfl, rfl, rfl, -, rfl, -⟩ := packWord_inj ((mask_sm_packWord ..).symm.trans h)
  all_goals simp [Format.restrict]

theorem restrict_of_fits {o : Op} {w : Word32} (h : w &&& o.format.mask = o.matchWord) :
    o.format.restrict o.code w = w := by
  rw [← packWord_fields w] at h ⊢
  exact restrict_packWord h

section
open Laws.MaskMatch

/-- The word of every command passes its row's mask check. -/
theorem encode_fits (i : Instr) : encode i &&& i.op.format.mask = i.op.matchWord := by
  cases i
  exacts [nop, srst, bqInit _ _, bqSetc _ _, bqProc _ _ _, bqStab _ _, bqDsgn _ _ _, bqRd _ _ _, svfInit _ _ _,
    svfSetf _ _, svfSetq _ _, svfSetsr _ _, svfSetg _ _, svfProc _ _ _, svfRd _ _ _, splInit _ _ _, splSetf _ _,
    splSplit _ _ _, splGain _ _ _ _, splRd _ _ _ _, envInit _ _ _ _, envTick _ _, envSetrel _ _, envProg _ _,
    envDur _ _, envRd _ _ _, patDflt _, patClr _, patEval _ _ _, patIns _ _ _, patRm _ _, patRmpos _ _ _,
    patRmrng _ _ _, patInv _, patRev _, patRdpt _ _ _, patLen _ _, patSclr, patSpush _ _, patScommit _]

end

/-! ## The decoder's three stages -/

theorem decode_eq_ok {w : Word32} {i : Instr} : decode w = .ok i ↔
    ∃ o, opOfCode (fieldOpcode w) = some o ∧ w &&& o.format.mask = o.matchWord ∧ buildInstr o w = .ok i := by
  unfold decode
  cases opOfCode (fieldOpcode w) with
  | none => simp
  | some o => by_cases h : w &&& o.format.mask = o.matchWord <;> simp [h]

/-! ## From a command to its word and back (O1) -/

theorem fieldOpcode_encode (i : Instr) : fieldOpcode (encode i) = i.op.code := by
  cases i <;> exact fieldOpcode_packWord ..

/-- A command's row reads every operand back from the fields of its word. -/
theorem buildInstr_encode {i : Instr} (hi : WellFormed i) : buildInstr i.op (encode i) = .ok i := by
  cases i
  case bqDsgn inst rs1 kind =>
    have hkind : kind.forBiquad = true := hi
    simp [buildInstr, encode, Instr.op, Option.filter, hkind]
  case splRd inst rd slot field =>
    have hsel : splSelector slot field = true := hi
    simp [buildInstr, encode, Instr.op, hsel]
  all_goals simp [buildInstr, encode, Instr.op]

theorem decode_encode {i : Instr} (hi : WellFormed i) : decode (encode i) = .ok i :=
  decode_eq_ok.2 ⟨i.op, by rw [fieldOpcode_encode, opOfCode_code], encode_fits i, buildInstr_encode hi⟩

/-- Settles O1: the word names the command's row, fits it, and holds its operands. -/
theorem decodeOfEncodeIsIdentity : Obligations.DecodeOfEncodeIsIdentity := fun _ hi => decode_encode hi

/-! ## From a word to its command and back (O2) -/

/-- The two halves of an `imm8` put together again. -/
theorem nibbles_append (b : BitVec 8) : b.extractLsb' 4 4 ++ b.extractLsb' 0 4 = b := by
  apply BitVec.eq_of_getLsbD_eq
  intro k hk
  simp only [BitVec.getLsbD_extractLsb', BitVec.getLsbD_append]
  interval_cases k <;> simp

/-- `imm8` of `ENV.INIT` from the two selectors it holds (44_envelope R181). -/
theorem curvesImm_of_ofCode {b : BitVec 8} {a r : CurveSel} (ha : CurveSel.ofCode (b.extractLsb' 0 4) = some a)
    (hr : CurveSel.ofCode (b.extractLsb' 4 4) = some r) : curvesImm a r = b := by
  rw [curvesImm, CurveSel.code_of_ofCode ha, CurveSel.code_of_ofCode hr, nibbles_append]

/-- What a row reads from a word is a well-formed command, whose own word is `w` in the fields the row uses. -/
theorem buildInstr_eq_ok {o : Op} {w : Word32} {i : Instr} (h : buildInstr o w = .ok i) :
    WellFormed i ∧ encode i = o.format.restrict o.code w := by
  cases o
  case bqDsgn =>
    obtain ⟨kind, hk, rfl⟩ := inRange_eq_ok.1 h
    obtain ⟨hk, hbq⟩ := Option.filter_eq_some_iff.1 hk
    exact ⟨hbq, congrArg (packWord _ _ _ _ _) (FilterKind.imm_of_ofImm hk)⟩
  case bqRd =>
    obtain ⟨field, hf, rfl⟩ := inRange_eq_ok.1 h
    exact ⟨rfl, congrArg (packWord _ _ _ _ _) (BqField.imm_of_ofImm hf)⟩
  case svfInit =>
    obtain ⟨kind, hk, rfl⟩ := inRange_eq_ok.1 h
    exact ⟨rfl, congrArg (packWord _ _ _ _ _) (FilterKind.imm_of_ofImm hk)⟩
  case svfRd =>
    obtain ⟨field, hf, rfl⟩ := inRange_eq_ok.1 h
    exact ⟨rfl, congrArg (packWord _ _ _ _ _) (SvfField.imm_of_ofImm hf)⟩
  case splInit =>
    obtain ⟨topo, ht, rfl⟩ := inRange_eq_ok.1 h
    exact ⟨rfl, congrArg (packWord _ _ _ _ _) (Topo.imm_of_ofImm ht)⟩
  case splRd =>
    simp only [buildInstr] at h
    split at h
    · next hsel =>
      obtain rfl := Except.ok.inj h
      exact ⟨hsel, congrArg (packWord _ _ _ _ _) (nibbles_append _)⟩
    · cases h
  case envInit =>
    obtain ⟨⟨a, r⟩, hsel, rfl⟩ := inRange_eq_ok.1 h
    simp only [Option.bind_eq_some_iff, Option.map_eq_some_iff, Prod.mk.injEq] at hsel
    obtain ⟨a, ha, r, hr, rfl, rfl⟩ := hsel
    exact ⟨rfl, congrArg (packWord _ _ _ _ _) (curvesImm_of_ofCode ha hr)⟩
  case envRd =>
    obtain ⟨field, hf, rfl⟩ := inRange_eq_ok.1 h
    exact ⟨rfl, congrArg (packWord _ _ _ _ _) (EnvField.imm_of_ofImm hf)⟩
  case patIns =>
    obtain ⟨kind, hk, rfl⟩ := inRange_eq_ok.1 h
    exact ⟨rfl, congrArg (packWord _ _ _ _ _) (CurveKind.imm_of_ofImm hk)⟩
  case patSpush =>
    obtain ⟨kind, hk, rfl⟩ := inRange_eq_ok.1 h
    exact ⟨rfl, congrArg (packWord _ _ _ _ _) (CurveKind.imm_of_ofImm hk)⟩
  all_goals
    obtain rfl := Except.ok.inj h
    exact ⟨rfl, rfl⟩

/-- Settles O2: the fields the row reads give the command's word, and the mask check says that the other fields of `w`
are zero. -/
theorem encodeOfDecodeIsIdentity : Obligations.EncodeOfDecodeIsIdentity := by
  intro w i h
  obtain ⟨o, -, hfits, hbuild⟩ := decode_eq_ok.1 h
  obtain ⟨hwf, hword⟩ := buildInstr_eq_ok hbuild
  exact ⟨hwf, hword.trans (restrict_of_fits hfits)⟩

/-! ## Reserved opcodes (R98) -/

/-- A word that has a row is not rejected for its opcode. -/
theorem buildInstr_ne_reservedOpcode (o : Op) (w : Word32) : buildInstr o w ≠ .error .reservedOpcode := by
  cases o
  case splRd => simp only [buildInstr]; split <;> simp
  case bqDsgn | bqRd | svfInit | svfRd | splInit | envInit | envRd | patIns | patSpush =>
    exact inRange_ne_reservedOpcode
  all_goals nofun

theorem decode_eq_reservedOpcode {w : Word32} :
    decode w = .error .reservedOpcode ↔ opOfCode (fieldOpcode w) = none := by
  unfold decode
  cases opOfCode (fieldOpcode w) with
  | none => simp
  | some o => by_cases h : w &&& o.format.mask = o.matchWord <;> simp [h, buildInstr_ne_reservedOpcode]

/-- The opcodes without a row, one byte at a time: the ranges of R98. -/
theorem opOfCode_eq_none_iff_range : ∀ b : BitVec 8, opOfCode b = none ↔
    (0x02 ≤ b.toNat ∧ b.toNat ≤ 0x0F) ∨ (0x16 ≤ b.toNat ∧ b.toNat ≤ 0x1F) ∨
    (0x27 ≤ b.toNat ∧ b.toNat ≤ 0x2F) ∨ (0x35 ≤ b.toNat ∧ b.toNat ≤ 0x3F) ∨
    (0x46 ≤ b.toNat ∧ b.toNat ≤ 0x4F) ∨ 0x5E ≤ b.toNat := by
  decide +kernel

/-- Settles O3: a word is rejected for its opcode exactly if the opcode has no row; a word that decodes to `NOP` is the
word of `NOP`. -/
theorem reservedOpcodesAreRejected : Obligations.ReservedOpcodesAreRejected := by
  refine ⟨fun w => decode_eq_reservedOpcode.trans (opOfCode_eq_none_iff_range _), fun w => ⟨fun h => ?_, ?_⟩⟩
  · obtain ⟨-, hword⟩ := encodeOfDecodeIsIdentity w .nop h
    exact hword.symm
  · rintro rfl
    exact decode_encode (i := .nop) rfl

/-! ## Sample words (R100) -/

theorem decode_of_encode_eq {w : Word32} {i : Instr} (hi : WellFormed i) (h : encode i = w) : decode w = .ok i :=
  h ▸ decode_encode hi

/-- Settles O4: each sample word is the word of its command; the other three are rejected one check after another. -/
theorem sampleWordsDecode : Obligations.SampleWordsDecode :=
  ⟨decode_of_encode_eq rfl (by decide), decode_of_encode_eq rfl (by decide), decode_of_encode_eq rfl (by decide),
    decode_of_encode_eq rfl (by decide), decode_of_encode_eq rfl (by decide), decode_of_encode_eq rfl (by decide),
    decode_of_encode_eq rfl (by decide), by decide, by decide, by decide⟩

end Sys2Proof
end

section
/-! Family 30_encoding, part 2. What a command word does to the machine: the destination block of a command (30_encoding
R95, R96), and a word that selects no command (R99). -/

namespace Sys2Proof.Machine

/-! ## The destination block -/

/-- The register is none of the command's destination block. -/
def OutsideBlock (i : Instr) (r : Reg) : Prop :=
  ∀ k, k < destCount i → r ≠ fieldRd (encode i) + BitVec.ofNat 4 k

section
variable {i : Instr} {s t : State} {r : Reg}

theorem RegWrite.getX_outside (w : RegWrite i s t) (hr : OutsideBlock i r) : t.getX r = s.getX r := by
  cases w with
  | none => rfl
  | one hrd hn =>
    subst hrd
    exact State.getX_setX_other _ _ _ (by simpa using hr 0 hn)
  | block hrd hn =>
    subst hrd
    exact getX_setBlock_of_ne fun k hk => hr k (hk.trans_le hn)

/-- A store to a unit or to the staging buffer writes no data register, so only the results are left. -/
theorem Effect.getX_outside {rc : ResultCode} (he : Effect i s (.completes rc t)) (hr : OutsideBlock i r) :
    t.getX r = s.getX r := by
  cases he with
  | code => rfl
  | regs w => exact w.getX_outside hr
  | bq _ _ w => exact w.getX_outside hr
  | svf _ _ w => exact w.getX_outside hr
  | spl _ _ w => exact w.getX_outside hr
  | env _ _ w => exact w.getX_outside hr
  | pat _ _ w => exact w.getX_outside hr
  | staging => rfl

end

/-- Settles O24: refused or faulting a command writes no data register, and completing it writes its results only. -/
theorem commandsWriteOnlyTheirDestination : Obligations.CommandsWriteOnlyTheirDestination := by
  intro i s t r hi h hr
  rcases exec_cases hi h with rfl | ⟨c, info, rfl⟩ | ⟨rc, u, he, rfl⟩
  · rfl
  · rfl
  · exact he.getX_outside hr

/-! ## A word that selects no command -/

theorem writeCmd_of_undecodable {w : Word32} (h : ∀ i, decode w ≠ .ok i) (s : State) :
    writeCmd w s = illegalWord w s := by
  unfold writeCmd
  split
  · next i hi => exact absurd hi (h i)
  · rfl

theorem illegalWord_of_running {s : State} (h : s.Running) (w : Word32) :
    illegalWord w s = .next (s.raise .illegalCmd w 0) := by
  rw [illegalWord, h]; rfl

/-- Settles O5: the step serves the write to `CMD`, whose word raises the fault. -/
theorem illegalWordRaisesIllegalCmd : Obligations.IllegalWordRaisesIllegalCmd := by
  intro s w rest hin hrun hhost hw
  rw [step_serve hhost, serve_write_cmd (s := { s with host := rest }) hin, writeCmd_of_undecodable hw]
  exact illegalWord_of_running (s := { s with host := rest, port := .written }) hrun w

end Sys2Proof.Machine
end

section
/-! Family 40_biquad. The commands of unit BQ on an instance in range with no fault recorded (40_biquad R110 to R115): each
completes with `OK` in the state its rule names. -/

namespace Sys2Proof.Machine

/-! ## Operands -/

@[simp] theorem State.xr_zero (s : State) (r : Reg) : s.xr r 0 = s.getX r := congrArg s.getX (BitVec.add_zero r)

theorem State.bqBlock_eq (s : State) (rs1 : Reg) : s.bqBlock rs1 =
    ⟨s.getX rs1, s.getX (rs1 + 1), s.getX (rs1 + 2), s.getX (rs1 + 3), s.getX (rs1 + 4)⟩ := by
  rw [State.bqBlock, State.xr_zero]; rfl

/-! ## The commands -/

section
variable {s : State} {inst : Idx} {b : Biquad}

/-- With every check passed, a command whose rule completes on the biquad it selects is that rule's next state. -/
theorem command_withBq {i : Instr} {k : Biquad → CmdOutcome} {rc : ResultCode} {t : State} (hrun : s.Running)
    (hi : inst.toNat < s.cfg.nBq) (hb : bankGet s.bq inst = some b) (hk : k b = .completes rc t) :
    command i s (withBq s inst k) = .next { t with rc := rc } := by
  rw [command_of_running hrun, withBq_some hi hb, hk, settle_completes]

theorem exec_bqInit (rs1 : Reg) (hrun : s.Running) (hi : inst.toNat < s.cfg.nBq) :
    exec (.bqInit inst rs1) s = .next { s.setBq inst (Biquad.fresh (s.bqBlock rs1)) with rc := .ok } := by
  change execBqInit inst rs1 s = _
  rw [execBqInit, command_of_running hrun, checkInst_of_lt hi, settle_completes]

theorem exec_bqSetc (rs1 : Reg) (hrun : s.Running) (hi : inst.toNat < s.cfg.nBq) (hb : bankGet s.bq inst = some b) :
    exec (.bqSetc inst rs1) s = .next { s.setBq inst (b.withCoefs (s.bqBlock rs1)) with rc := .ok } :=
  command_withBq hrun hi hb rfl

theorem exec_bqDsgn (rs1 : Reg) {kind : FilterKind} (hrun : s.Running) (hi : inst.toNat < s.cfg.nBq)
    (hb : bankGet s.bq inst = some b) (hkind : kind.forBiquad = true) :
    exec (.bqDsgn inst rs1 kind) s = .next { s.setBq inst
      (b.withCoefs (bqStrategy s.cfg kind (s.getX rs1) (s.getX (rs1 + 1)) (s.getX (rs1 + 2)))) with rc := .ok } := by
  change execBqDsgn inst rs1 kind s = _
  rw [execBqDsgn, if_pos hkind, State.xr_zero]
  exact command_withBq hrun hi hb rfl

theorem exec_bqProc (rd rs1 : Reg) (hrun : s.Running) (hi : inst.toNat < s.cfg.nBq) (hb : bankGet s.bq inst = some b) :
    exec (.bqProc inst rd rs1) s = .next
      { (s.setBq inst (bqStep s.fp b (s.getX rs1)).2).setX rd (bqStep s.fp b (s.getX rs1)).1 with rc := .ok } :=
  command_withBq hrun hi hb rfl

theorem exec_bqStab (rd : Reg) (hrun : s.Running) (hi : inst.toNat < s.cfg.nBq) (hb : bankGet s.bq inst = some b) :
    exec (.bqStab inst rd) s = .next { s.setX rd (if bqStable s.fp b.a1 b.a2 then 1 else 0) with rc := .ok } :=
  command_withBq hrun hi hb rfl

theorem exec_bqRd (rd : Reg) (field : BqField) (hrun : s.Running) (hi : inst.toNat < s.cfg.nBq)
    (hb : bankGet s.bq inst = some b) :
    exec (.bqRd inst rd field) s = .next { s.setX rd (b.read field) with rc := .ok } :=
  command_withBq hrun hi hb rfl

end

/-- Settles O26: each command stores the biquad its rule names, and the block is five registers from `rs1`, wrapping. -/
theorem biquadCoefficientCommands : Obligations.BiquadCoefficientCommands := by
  refine ⟨fun s inst rs1 hrun hi => ⟨?init, fun b hb => ?setc⟩, fun s inst rs1 kind b hrun hi hb hkind => ?dsgn⟩
  case init => rw [exec_bqInit rs1 hrun hi, State.bqBlock_eq]; rfl
  case setc => rw [exec_bqSetc rs1 hrun hi hb, State.bqBlock_eq]; rfl
  case dsgn => exact exec_bqDsgn rs1 hrun hi hb hkind

/-- Settles O27: the step of the difference equation is the obligation's `y` and its shifted history. -/
theorem biquadProcess : Obligations.BiquadProcess :=
  fun _ _ rd rs1 _ hrun hi hb => exec_bqProc rd rs1 hrun hi hb

/-! ## The stability predicate (40_biquad R113) -/

theorem f64_not_lt_of_ge {a b : F64} (h : ge a b = true) : ¬ lt a b = true := by
  intro hlt
  have hle := (le_iff.1 h).2.2
  have hlt := (lt_iff.1 hlt).2.2
  omega

theorem bqStable_iff {A : Arith} {a1 a2 : F64} : bqStable A a1 a2 = true ↔
    lt (abs a1) Const.two = true ∧ lt (A.sub (abs a1) Const.one) a2 = true ∧ lt a2 Const.one = true := by
  simp only [bqStable, Bool.and_eq_true, and_assoc]

/-- Outside the stability triangle: `|a1|` of 2 or more, `a2` of 1 or more, or a NaN, which no comparison accepts. -/
theorem not_bqStable {A : Arith} {a1 a2 : F64} (h : ge (abs a1) Const.two = true ∨ ge a2 Const.one = true ∨
    isNaN a1 = true ∨ isNaN a2 = true) : ¬ bqStable A a1 a2 = true := by
  intro hstable
  obtain ⟨h1, -, h2⟩ := bqStable_iff.1 hstable
  rcases h with h | h | h | h
  · exact f64_not_lt_of_ge h h1
  · exact f64_not_lt_of_ge h h2
  · have hnan := (lt_iff.1 h1).1
    rw [isNaN_abs, h] at hnan
    cases hnan
  · have hnan := (lt_iff.1 h2).1
    rw [h] at hnan
    cases hnan

/-- Settles O28: `BQ.STAB` writes the stability predicate as an integer, `BQ.RD` the selected element. -/
theorem biquadQueries : Obligations.BiquadQueries := by
  refine ⟨fun s inst rd b hrun hi hb => ⟨_, exec_bqStab rd hrun hi hb, fun h1 h2 h3 => ?stable, fun h => ?unstable,
    fun h => ?outside⟩, fun s inst rd field b hrun hi hb => ?read⟩
  case stable => exact if_pos (bqStable_iff.2 ⟨h1, h2, h3⟩)
  case unstable => exact if_neg (mt bqStable_iff.1 h)
  case outside => exact if_neg (not_bqStable h)
  case read => rw [exec_bqRd rd field hrun hi hb]; cases field <;> rfl

end Sys2Proof.Machine
end

section
/-! Family 41_svf. The commands of unit SVF on an instance in range with no fault recorded (41_svf R120 to R127): each
completes with `OK` in the state its rule names. -/

namespace Sys2Proof.Machine

/-! ## Operands and elements -/

/-- The block of `SVF.INIT` is four registers from `rs1`, wrapping (30_encoding R95). -/
theorem Svf.fresh_xr (s : State) (kind : FilterKind) (rs1 : Reg) :
    Svf.fresh s.cfg kind (s.xr rs1 0) (s.xr rs1 1) (s.xr rs1 2) (s.xr rs1 3) =
      Svf.fresh s.cfg kind (s.getX rs1) (s.getX (rs1 + 1)) (s.getX (rs1 + 2)) (s.getX (rs1 + 3)) := by
  rw [State.xr_zero]; rfl

/-- The tag of a kind as a data register holds it (10_state R45, 41_svf R127). -/
theorem FilterKind.imm_setWidth (k : FilterKind) : k.imm.setWidth 64 =
    match k with | .lp => (0 : U64) | .hp => 1 | .ap => 2 | .ls => 3 | .hs => 4 := by
  cases k <;> rfl

/-! ## The commands -/

section
variable {s : State} {inst : Idx} {u : Svf}

/-- With every check passed, a command whose rule completes on the SVF it selects is that rule's next state. -/
theorem command_withSvf {i : Instr} {k : Svf → CmdOutcome} {rc : ResultCode} {t : State} (hrun : s.Running)
    (hi : inst.toNat < s.cfg.nSvf) (hu : bankGet s.svf inst = some u) (hk : k u = .completes rc t) :
    command i s (withSvf s inst k) = .next { t with rc := rc } := by
  rw [command_of_running hrun, withSvf_some hi hu, hk, settle_completes]

/-- The shape of the four setters (R122 to R125) with every check passed: an equal value writes `RC` alone, another value
is stored and the coefficients recomputed. -/
theorem command_svfSetter (i : Instr) (v : F64) (stored : Svf → F64) (store : Svf → F64 → Svf) (hrun : s.Running)
    (hi : inst.toNat < s.cfg.nSvf) (hu : bankGet s.svf inst = some u) :
    command i s (svfSetter s inst v stored store) = .next
      (if feq v (stored u) = true then { s with rc := .ok }
        else { s.setSvf inst ((store u v).recompute s.cfg) with rc := .ok }) := by
  by_cases heq : feq v (stored u) = true
  · rw [if_pos heq]; exact command_withSvf hrun hi hu (if_pos heq)
  · rw [if_neg heq]; exact command_withSvf hrun hi hu (if_neg heq)

theorem exec_svfInit (rs1 : Reg) (kind : FilterKind) (hrun : s.Running) (hi : inst.toNat < s.cfg.nSvf) :
    exec (.svfInit inst rs1 kind) s = .next { s.setSvf inst (Svf.fresh s.cfg kind
      (s.getX rs1) (s.getX (rs1 + 1)) (s.getX (rs1 + 2)) (s.getX (rs1 + 3))) with rc := .ok } := by
  change execSvfInit inst rs1 kind s = _
  rw [execSvfInit, command_of_running hrun, checkInst_of_lt hi, settle_completes, Svf.fresh_xr]

theorem exec_svfProc (rd rs1 : Reg) (hrun : s.Running) (hi : inst.toNat < s.cfg.nSvf)
    (hu : bankGet s.svf inst = some u) :
    exec (.svfProc inst rd rs1) s = .next
      { (s.setSvf inst (svfStep s.fp u (s.getX rs1)).2).setX rd (svfStep s.fp u (s.getX rs1)).1 with rc := .ok } :=
  command_withSvf hrun hi hu rfl

theorem exec_svfRd (rd : Reg) (field : SvfField) (hrun : s.Running) (hi : inst.toNat < s.cfg.nSvf)
    (hu : bankGet s.svf inst = some u) :
    exec (.svfRd inst rd field) s = .next { s.setX rd (u.read field) with rc := .ok } :=
  command_withSvf hrun hi hu rfl

end

/-- Settles O30: a fresh SVF holds the block's four parameters, zero integrators and the strategy's coefficients. -/
theorem svfConstruction : Obligations.SvfConstruction :=
  fun _ _ rs1 kind hrun hi => exec_svfInit rs1 kind hrun hi

/-- Settles O31: the four setters are one shape; recomputing after a store uses the new parameter and the three old ones,
and keeps the integrators. -/
theorem svfSetters : Obligations.SvfSetters := by
  intro s inst rs1 u hrun hi hu
  refine ⟨?setf, ?setq, ?setsr, ?setg⟩
  case setf => exact command_svfSetter _ (s.getX rs1) (·.f) (fun u v => { u with f := v }) hrun hi hu
  case setq => exact command_svfSetter _ (s.getX rs1) (·.q) (fun u v => { u with q := v }) hrun hi hu
  case setsr => exact command_svfSetter _ (s.getX rs1) (·.sr) (fun u v => { u with sr := v }) hrun hi hu
  case setg => exact command_svfSetter _ (s.getX rs1) (·.gain) (fun u v => { u with gain := v }) hrun hi hu

/-- Settles O32: one step of the filter core, its output and both integrators computed from the old integrators. -/
theorem svfProcess : Obligations.SvfProcess :=
  fun _ _ rd rs1 _ hrun hi hu => exec_svfProc rd rs1 hrun hi hu

/-- Settles O33: twelve elements are stored words; the thirteenth is the kind's tag. -/
theorem svfRead : Obligations.SvfRead := by
  intro s inst rd field u hrun hi hu
  rw [exec_svfRd rd field hrun hi hu]
  cases field
  case kind => rw [Svf.read, FilterKind.imm_setWidth]; rfl
  all_goals rfl

end Sys2Proof.Machine
end

section
/-! Family 42_coefficients, part 1. What the operators give at zeros and at 1.0 (00_scope R11): the products, quotients and
sums that the unity shelf (42_coefficients R143) and the corner cases of the strategies (R144, R149) turn on. -/

namespace Sys2Proof.Machine

/-! ## Zeros -/

theorem isZero_iff {a : F64} : isZero a = true ↔ mag a = 0 := by simp [isZero]

theorem isFinite_of_isZero {a : F64} (h : isZero a = true) : isFinite a = true :=
  isFinite_iff.2 (isZero_iff.1 h ▸ by decide)

theorem isZero_ofSignMag_zero (s : Bool) : isZero (ofSignMag s 0) = true := isZero_iff.2 (mag_ofSignMag s (by decide))

theorem flush_of_isZero (A : Arith) {a : F64} (h : isZero a = true) : A.flush a = a := by
  have hm := isZero_iff.1 h
  simp [Arith.flush, isSubnormal, hm]

theorem not_isFinite_iff {a : F64} : isFinite a = false ↔ infMag ≤ mag a := by simp [isFinite]

theorem flush_of_not_isFinite (A : Arith) {a : F64} (h : isFinite a = false) : A.flush a = a := by
  have hm : 2 ^ 52 ≤ mag a := le_trans (by decide) (not_isFinite_iff.1 h)
  have hs : isSubnormal a = false := by
    rw [isSubnormal, decide_eq_false (Nat.not_lt.2 hm), Bool.and_false]
  rw [Arith.flush, hs, Bool.and_false, if_neg Bool.false_ne_true]

theorem not_isFinite_ofSignMag_infMag (s : Bool) : isFinite (ofSignMag s infMag) = false :=
  not_isFinite_iff.2 (le_of_eq (mag_ofSignMag s infMag_lt).symm)

theorem not_isFinite_freeNaN (op : NanOp) (a b : F64) : isFinite (freeNaN op a b) = false :=
  not_isFinite_iff.2 (le_of_lt (isNaN_iff.1 (isNaN_freeNaN op a b)))

theorem isFinite_or_isInf {a : F64} (h : isNaN a = false) : isFinite a = true ∨ isInf a = true := by
  have hm := not_isNaN_iff.1 h
  rcases Nat.lt_or_eq_of_le hm with hlt | heq
  · exact .inl (isFinite_iff.2 hlt)
  · exact .inr (by simpa [isInf] using heq)

/-- Equal order keys leave only the sign of a zero open. -/
theorem eq_of_orderKey_eq {a b : F64} (hb : isZero b = false) (h : orderKey a = orderKey b) : a = b := by
  have hm : mag b ≠ 0 := by simpa [isZero] using hb
  unfold orderKey at h
  cases ha : a.msb <;> cases hb : b.msb <;> simp only [ha, hb, if_true, if_false, Bool.false_eq_true] at h
  · exact f64_ext (ha.trans hb.symm) (by omega)
  · omega
  · omega
  · exact f64_ext (ha.trans hb.symm) (by omega)

theorem isFinite_congr {a b : F64} (h : orderKey a = orderKey b) : isFinite a = isFinite b := by
  have hm : mag a = mag b := by
    unfold orderKey at h
    split at h <;> split at h <;> omega
  rw [isFinite, isFinite, hm]

/-! ## Products -/

theorem mul_finite (A : Arith) {a b : F64} (ha : isFinite a = true) (hb : isFinite b = true) :
    A.mul a b = A.flush (ofSignMag ((A.flush a).msb != (A.flush b).msb)
      (roundRatio (units (mag (A.flush a)) * units (mag (A.flush b))) (2 ^ 1074))) := by
  rw [Arith.mul, if_neg (by simp [not_isNaN_of_isFinite ha, not_isNaN_of_isFinite hb]), productOf, if_neg (by
    simp [not_isInf_of_isFinite (isFinite_flush A ha), not_isInf_of_isFinite (isFinite_flush A hb)])]

/-- A finite value times a zero is a zero. -/
theorem isZero_mul (A : Arith) {a b : F64} (ha : isFinite a = true) (hb : isFinite b = true)
    (h : isZero a = true ∨ isZero b = true) : isZero (A.mul a b) = true := by
  have hunits : units (mag (A.flush a)) * units (mag (A.flush b)) = 0 := by
    rcases h with h | h
    · rw [flush_of_isZero A h, isZero_iff.1 h, units_zero, Nat.zero_mul]
    · rw [flush_of_isZero A h, isZero_iff.1 h, units_zero, Nat.mul_zero]
  rw [mul_finite A ha hb, hunits, roundRatio_zero _ (by positivity), flush_of_isZero A (isZero_ofSignMag_zero _)]
  exact isZero_ofSignMag_zero _

/-- A magnitude pattern with an empty fraction is a power of two. -/
theorem units_of_exponent {e k : Nat} (hk : k = 52 + e) : units ((e + 1) * 2 ^ 52) = 2 ^ k := by
  rw [units, if_neg (by omega), Nat.mul_mod_left, Nat.add_zero, Nat.mul_div_cancel _ (by decide), Nat.add_sub_cancel,
    ← pow_add, hk]

theorem units_one : units (mag Const.one) = 2 ^ 1074 := by
  rw [show mag Const.one = (1022 + 1) * 2 ^ 52 by decide]; exact units_of_exponent (by omega)

theorem units_two : units (mag Const.two) = 2 ^ 1075 := by
  rw [show mag Const.two = (1023 + 1) * 2 ^ 52 by decide]; exact units_of_exponent (by omega)

section
variable {A : Arith} (hA : A.ftz = false) {a : F64} (ha : isFinite a = true)
include hA ha

/-- Without flushing, 1.0 times a finite value is that value. -/
theorem one_mul_of_isFinite : A.mul Const.one a = a := by
  have hsign : Const.one.msb = false := by decide
  rw [mul_finite A (by decide) ha, flush_false hA, flush_false hA, flush_false hA, units_one, Nat.mul_comm,
    roundRatio_units (le_of_lt (isFinite_iff.1 ha)) (by positivity), hsign, Bool.false_bne, ofSignMag_msb_mag]

theorem mul_one_of_isFinite : A.mul a Const.one = a := by
  have hsign : Const.one.msb = false := by decide
  rw [mul_finite A ha (by decide), flush_false hA, flush_false hA, flush_false hA, units_one,
    roundRatio_units (le_of_lt (isFinite_iff.1 ha)) (by positivity), hsign, Bool.bne_false, ofSignMag_msb_mag]

end

/-- Without flushing, doubling never shrinks a finite value, and overflows at most to an infinity. -/
theorem mag_two_mul_of_isFinite {A : Arith} (hA : A.ftz = false) {a : F64} (ha : isFinite a = true) :
    mag a ≤ mag (A.mul Const.two a) ∧ mag (A.mul Const.two a) ≤ infMag := by
  have hle := roundRatio_le (units (mag Const.two) * units (mag a)) (2 ^ 1074)
  rw [mul_finite A (by decide) ha, flush_false hA, flush_false hA, flush_false hA,
    mag_ofSignMag _ (lt_of_le_of_lt hle infMag_lt)]
  refine ⟨?_, hle⟩
  have hdouble : 2 ^ 1074 ≤ units (mag Const.two) := by
    rw [units_two]; exact pow_le_pow_right₀ one_le_two (by omega)
  have hexact : units (mag a) * 2 ^ 1074 ≤ units (mag Const.two) * units (mag a) := by
    rw [Nat.mul_comm]
    exact Nat.mul_le_mul_right _ hdouble
  calc mag a = roundRatio (units (mag a) * 2 ^ 1074) (2 ^ 1074) :=
        (roundRatio_units (le_of_lt (isFinite_iff.1 ha)) (by positivity)).symm
    _ ≤ roundRatio (units (mag Const.two) * units (mag a)) (2 ^ 1074) :=
        roundRatio_mono (by positivity) (by positivity) (Nat.mul_le_mul_right _ hexact)

theorem mag_two_mul_of_isInf {A : Arith} (hA : A.ftz = false) {a : F64} (ha : isInf a = true) :
    mag (A.mul Const.two a) = infMag := by
  have h2n : isNaN Const.two = false := by decide
  have h2z : isZero Const.two = false := by decide
  have hm : mag a = infMag := by simpa [isInf] using ha
  have hn : isNaN a = false := not_isNaN_iff.2 hm.le
  have hz : isZero a = false := by simp [isZero, hm, infMag]
  have hmul : A.mul Const.two a = ofSignMag (Const.two.msb != a.msb) infMag := by
    simp [Arith.mul, productOf, flush_false hA, hn, ha, hz, h2n, h2z]
  rw [hmul, mag_ofSignMag _ infMag_lt]

/-- Without flushing, doubling a value that is neither a NaN nor a zero gives neither. -/
theorem two_mul_ne_zero {A : Arith} (hA : A.ftz = false) {a : F64} (hn : isNaN a = false) (hz : isZero a = false) :
    isNaN (A.mul Const.two a) = false ∧ isZero (A.mul Const.two a) = false := by
  rw [not_isNaN_iff]
  simp only [isZero, beq_eq_false_iff_ne] at hz ⊢
  rcases isFinite_or_isInf hn with hf | hi
  · obtain ⟨hlo, hhi⟩ := mag_two_mul_of_isFinite hA hf
    exact ⟨hhi, by omega⟩
  · rw [mag_two_mul_of_isInf hA hi]
    exact ⟨le_refl _, by decide⟩

/-- The circle constant of 42_coefficients R145 is at most 8.0. -/
theorem isFinite_two_mul_pi {A : Arith} (hA : A.ftz = false) : isFinite (A.mul Const.two Const.pi) = true := by
  have hpi : units (mag Const.pi) ≤ 2 ^ 1076 := by
    rw [← units_of_exponent (e := 1024) (by omega), units_le_iff (by decide) (by decide)]
    decide
  have hprod : units (mag Const.two) * units (mag Const.pi) ≤ units ((1025 + 1) * 2 ^ 52) * 2 ^ 1074 := by
    rw [units_two, units_of_exponent (k := 1077) (by omega), ← pow_add]
    refine le_trans (Nat.mul_le_mul_left _ hpi) ?_
    rw [← pow_add]
  have hle : roundRatio (units (mag Const.two) * units (mag Const.pi)) (2 ^ 1074) ≤ (1025 + 1) * 2 ^ 52 := by
    rw [← roundRatio_units (m := (1025 + 1) * 2 ^ 52) (d := 2 ^ 1074) (by decide) (by positivity)]
    exact roundRatio_mono (by positivity) (by positivity) (Nat.mul_le_mul_right _ hprod)
  rw [mul_finite A (by decide) (by decide), flush_false hA, flush_false hA, flush_false hA, isFinite_iff,
    mag_ofSignMag _ (lt_of_le_of_lt hle (by decide))]
  exact lt_of_le_of_lt hle (by decide)

/-! ## Square roots -/

/-- No further bit fits below an exact root. -/
theorem sqrtBits_of_exact (k r : Nat) : sqrtBits k (r * r) r = r := by
  induction k with
  | zero => rfl
  | succ k ih =>
    have hpos : 0 < 2 ^ k := by positivity
    have hlt : r * r < (r + 2 ^ k) * (r + 2 ^ k) := Nat.mul_self_lt_mul_self (by omega)
    rw [sqrtBits, if_neg (Nat.not_le.2 hlt), ih]

/-- The root of an even power of two is exact. -/
theorem roundSqrt_pow (k : Nat) : roundSqrt (2 ^ (104 + 2 * k)) = packMag k (2 ^ 52) false := by
  have hshift : (2 ^ (104 + 2 * k)).log2 / 2 - 52 = k := by rw [Nat.log2_two_pow]; omega
  have hpow : 2 ^ (104 + 2 * k) = 2 ^ 52 * 2 ^ 52 * 4 ^ k := by
    rw [pow_add, pow_mul, show (2 : Nat) ^ 2 = 4 from rfl, ← pow_add]
  have hlead : 2 ^ (104 + 2 * k) / 4 ^ k = 2 ^ 52 * 2 ^ 52 := by rw [hpow, Nat.mul_div_cancel _ (by positivity)]
  have hbits : sqrtBits 53 (2 ^ 52 * 2 ^ 52) 0 = 2 ^ 52 := by
    rw [sqrtBits, if_pos (by decide), Nat.zero_add, sqrtBits_of_exact]
  have hexact : ¬ (2 * 2 ^ 52 + 1) * (2 * 2 ^ 52 + 1) * 4 ^ k < 4 * 2 ^ (104 + 2 * k) := by
    rw [hpow, ← Nat.mul_assoc]
    exact Nat.not_lt.2 (Nat.mul_le_mul_right _ (by decide))
  simp only [roundSqrt, hshift, hlead, hbits, decide_eq_false hexact]

theorem sqrt_one {A : Arith} (hA : A.ftz = false) : A.sqrt Const.one = Const.one := by
  have hround : roundSqrt (units (mag Const.one) * 2 ^ 1074) = mag Const.one := by
    rw [units_one, ← pow_add, show 1074 + 1074 = 104 + 2 * 1022 by omega, roundSqrt_pow]
    decide
  rw [Arith.sqrt, if_neg (by decide), flush_false hA, flush_false hA, rootOf, if_neg (by decide), if_neg (by decide),
    if_neg (by decide), hround]
  exact ofSignMag_msb_mag Const.one

/-! ## Quotients -/

/-- A quotient by a zero is a NaN or an infinity. -/
theorem not_isFinite_div_of_isZero (A : Arith) (a : F64) {b : F64} (hb : isZero b = true) :
    isFinite (A.div a b) = false := by
  have hbn := not_isNaN_of_isFinite (isFinite_of_isZero hb)
  have hbi := not_isInf_of_isFinite (isFinite_of_isZero hb)
  have hquot (x : F64) : isFinite (quotientOf x b) = false := by
    by_cases hx : isInf x = true
    · simp [quotientOf, hx, hbi, not_isFinite_ofSignMag_infMag]
    · rw [quotientOf, if_neg hx, if_neg (by simp [hbi]), if_pos hb]
      split
      · exact not_isFinite_freeNaN ..
      · exact not_isFinite_ofSignMag_infMag _
  cases hn : isNaN a
  · rw [Arith.div, if_neg (by simp [hn, hbn]), flush_of_isZero A hb, flush_of_not_isFinite A (hquot _)]
    exact hquot _
  · rw [Arith.div, if_pos (by simp [hn])]
    exact not_isFinite_freeNaN ..

/-- A regular arithmetic has no angle at a NaN or an infinity (R144, R149). -/
theorem noAngle_of_not_isFinite {A : Arith} (hA : A.elementary = .regular) {a : F64} (h : isFinite a = false) :
    A.noAngle a = true := by
  cases hn : isNaN a
  · rcases isFinite_or_isInf hn with hf | hi
    · rw [h] at hf; cases hf
    · exact noAngle_of_isInf hA hi
  · exact noAngle_of_isNaN A hn

/-- Without flushing, a zero divided by a value that is neither a NaN nor a zero is a zero. -/
theorem div_of_isZero {A : Arith} (hA : A.ftz = false) {a b : F64} (ha : isZero a = true) (hn : isNaN b = false)
    (hz : isZero b = false) : A.div a b = ofSignMag (a.msb != b.msb) 0 := by
  have haf := isFinite_of_isZero ha
  rw [Arith.div, if_neg (by simp [not_isNaN_of_isFinite haf, hn]), flush_false hA, flush_false hA, flush_false hA,
    quotientOf, if_neg (by simp [not_isInf_of_isFinite haf])]
  split
  · rfl
  · have hd : 0 < units (mag b) := by
      have hle := units_le_iff (not_isNaN_iff.1 hn) (Nat.zero_le infMag)
      have hmag : mag b ≠ 0 := by simpa [isZero] using hz
      rw [units_zero] at hle
      omega
    rw [if_neg (by simp [hz]), isZero_iff.1 ha, units_zero, Nat.zero_mul, roundRatio_zero _ hd]

theorem isZero_div {A : Arith} (hA : A.ftz = false) {a b : F64} (ha : isZero a = true) (hn : isNaN b = false)
    (hz : isZero b = false) : isZero (A.div a b) = true := by
  rw [div_of_isZero hA ha hn hz]
  exact isZero_ofSignMag_zero _

/-- Without flushing, a finite value divided by 1.0 is that value. -/
theorem div_one_of_isFinite {A : Arith} (hA : A.ftz = false) {a : F64} (ha : isFinite a = true) :
    A.div a Const.one = a := by
  have hsign : Const.one.msb = false := by decide
  have hn : isNaN Const.one = false := by decide
  rw [Arith.div, if_neg (by simp [not_isNaN_of_isFinite ha, hn]), flush_false hA, flush_false hA, flush_false hA,
    quotientOf, if_neg (by simp [not_isInf_of_isFinite ha]), if_neg (by decide), if_neg (by decide), units_one,
    roundRatio_units (le_of_lt (isFinite_iff.1 ha)) (by positivity), hsign, Bool.bne_false, ofSignMag_msb_mag]

/-! ## Sums -/

/-- Without flushing, adding a zero to a finite value keeps the value (a zero's sign may change). -/
theorem orderKey_add_of_isZero {A : Arith} (hA : A.ftz = false) {a b : F64} (ha : isFinite a = true)
    (hb : isZero b = true) : orderKey (A.add a b) = orderKey a := by
  obtain ⟨-, hadd, hkey⟩ := add_finite A ha (isFinite_of_isZero hb)
  have hvalue : value b = 0 := by simp [value, isZero_iff.1 hb, units_zero]
  rw [hadd, flush_false hA, hkey, flush_false hA, flush_false hA, hvalue, Int.add_zero,
    keyOf_value (not_isNaN_of_isFinite ha)]

theorem orderKey_sub_of_isZero {A : Arith} (hA : A.ftz = false) {a b : F64} (ha : isFinite a = true)
    (hb : isZero b = true) : orderKey (A.sub a b) = orderKey a := by
  obtain ⟨-, hsub, hkey⟩ := sub_finite A ha (isFinite_of_isZero hb)
  have hvalue : value b = 0 := by simp [value, isZero_iff.1 hb, units_zero]
  rw [hsub, flush_false hA, hkey, flush_false hA, flush_false hA, hvalue, Int.sub_zero,
    keyOf_value (not_isNaN_of_isFinite ha)]

/-- Without flushing, `1.0 +. a` and `1.0 -. a` are 1.0 for a zero `a` of either sign. -/
theorem one_add_sub_of_isZero {A : Arith} (hA : A.ftz = false) {a : F64} (h : isZero a = true) :
    A.add Const.one a = Const.one ∧ A.sub Const.one a = Const.one :=
  have hone : isZero Const.one = false := by decide
  ⟨eq_of_orderKey_eq hone (orderKey_add_of_isZero hA (by decide) h),
    eq_of_orderKey_eq hone (orderKey_sub_of_isZero hA (by decide) h)⟩

end Sys2Proof.Machine
end

section
/-! Family 42_coefficients, part 2. The coefficient strategies (42_coefficients R137 to R149): what they are by kind, a
unity shelf, and the corner cases. -/

namespace Sys2Proof.Machine

/-! ## The strategies by kind -/

theorem svfStrategy_lp (c : Cfg) (f q sr gain : F64) :
    svfStrategy c .lp f q sr gain = svfLowPass (fpOf c) f q sr := rfl

section
variable {c : Cfg}

theorem svfStrategy_default (h : c.svfStrategies = .default) (kind : FilterKind) (f q sr gain : F64) :
    svfStrategy c kind f q sr gain = svfDefault c.nanShelf (fpOf c) kind f q sr gain := by
  cases c; cases h
  cases kind <;> rfl

theorem bqStrategy_lp (h : c.bqStrategies = .default) (f q sr : F64) :
    bqStrategy c .lp f q sr = bqLowPass (fpOf c) f q sr := by
  cases c; cases h; rfl

theorem bqStrategy_hp (h : c.bqStrategies = .default) (f q sr : F64) :
    bqStrategy c .hp f q sr = bqHighPass (fpOf c) f q sr := by
  cases c; cases h; rfl

theorem bqStrategy_ap (h : c.bqStrategies = .default) (f q sr : F64) :
    bqStrategy c .ap f q sr = bqAllPass (fpOf c) f q sr := by
  cases c; cases h; rfl

end

/-- Settles O29: each kind's strategy unfolds to its formula; only the SVF low-pass needs no premise on `cfg`. -/
theorem defaultStrategies : Obligations.DefaultStrategies := by
  refine ⟨fun c f q sr hbq => ⟨?bqLp, ?bqHp, ?bqAp⟩, fun c f q sr gain => ⟨?lp, fun hsvf => ⟨?hp, ?ap, ?ls, ?hs⟩⟩⟩
  case bqLp => rw [bqStrategy_lp hbq, bqLowPass, bqCore]
  case bqHp => rw [bqStrategy_hp hbq, bqHighPass, bqCore]
  case bqAp => rw [bqStrategy_ap hbq, bqAllPass, bqCore]
  case lp => rw [svfStrategy_lp, svfLowPass, svfCore, SvfCore.mix, preWarp]
  case hp => rw [svfStrategy_default hsvf, svfDefault, svfHighPass, svfCore, SvfCore.mix, preWarp]
  case ap => rw [svfStrategy_default hsvf, svfDefault, svfAllPass, svfCore, SvfCore.mix, preWarp]
  case ls => rw [svfStrategy_default hsvf, svfDefault, svfLowShelf, svfCore, SvfCore.mix, preWarp, lowShelfM0]
  case hs => rw [svfStrategy_default hsvf, svfDefault, svfHighShelf, svfCore, SvfCore.mix, preWarp]

/-! ## The mix coefficients of the shelves (R143) -/

section
variable (n : NanShelf) (A : Arith) (f q sr gain : F64)

theorem svfDefault_ls_mix :
    (svfDefault n A .ls f q sr gain).m0 = lowShelfM0 n gain ∧
    (svfDefault n A .ls f q sr gain).m1 = A.mul (A.div Const.one q) (A.sub (A.sqrt gain) Const.one) ∧
    (svfDefault n A .ls f q sr gain).m2 = A.sub (A.mul (A.sqrt gain) (A.sqrt gain)) Const.one := by
  simp only [svfDefault, svfLowShelf, SvfCore.mix, svfCore, and_self]

theorem svfDefault_hs_mix :
    (svfDefault n A .hs f q sr gain).m0 = A.mul (A.sqrt gain) (A.sqrt gain) ∧
    (svfDefault n A .hs f q sr gain).m1 =
      A.mul (A.mul (A.div Const.one q) (A.sub Const.one (A.sqrt gain))) (A.sqrt gain) ∧
    (svfDefault n A .hs f q sr gain).m2 = A.sub Const.one (A.mul (A.sqrt gain) (A.sqrt gain)) := by
  simp only [svfDefault, svfHighShelf, SvfCore.mix, svfCore, and_self]

end

/-! ## The unity shelf (R143) -/

section
variable {A : Arith}

/-- A shelf of gain 1.0 has the mix triple (1.0, ±0.0, ±0.0). -/
theorem svfDefault_unityShelf (hA : A.ftz = false) (n : NanShelf) {kind : FilterKind} (hkind : kind = .ls ∨ kind = .hs)
    (f sr : F64) {q : F64} (hk : isFinite (A.div Const.one q) = true) :
    (svfDefault n A kind f q sr Const.one).m0 = Const.one ∧
    isZero (svfDefault n A kind f q sr Const.one).m1 = true ∧
    isZero (svfDefault n A kind f q sr Const.one).m2 = true := by
  have hzero : isZero Const.zero = true := by decide
  have hmul : isZero (A.mul (A.div Const.one q) Const.zero) = true := isZero_mul A hk (by decide) (.inr hzero)
  have hsq : A.mul Const.one Const.one = Const.one := one_mul_of_isFinite hA (by decide)
  rcases hkind with rfl | rfl
  · obtain ⟨hm0, hm1, hm2⟩ := svfDefault_ls_mix n A f q sr Const.one
    rw [hm0, hm1, hm2, sqrt_one hA, hsq, one_sub_one]
    exact ⟨lowShelfM0_of_not_isNaN n (by decide), hmul, hzero⟩
  · obtain ⟨hm0, hm1, hm2⟩ := svfDefault_hs_mix n A f q sr Const.one
    rw [hm0, hm1, hm2, sqrt_one hA, hsq, one_sub_one]
    exact ⟨rfl, isZero_mul A (isFinite_of_isZero hmul) (by decide) (.inl hmul), hzero⟩

/-- Under that mix triple the output is the input, whatever the finite inner values (R143 from 41_svf R126). -/
theorem svfOutput_of_unityMix (hA : A.ftz = false) {v : Svf} {v0 : F64} {t : SvfTaps} (hm0 : v.m0 = Const.one)
    (hm1 : isZero v.m1 = true) (hm2 : isZero v.m2 = true) (hv0 : isFinite v0 = true) (hv1 : isFinite t.v1 = true)
    (hv2 : isFinite t.v2 = true) : feq (svfOutput A v v0 t) v0 = true := by
  have h1 : isZero (A.mul v.m1 t.v1) = true := isZero_mul A (isFinite_of_isZero hm1) hv1 (.inl hm1)
  have h2 : isZero (A.mul v.m2 t.v2) = true := isZero_mul A (isFinite_of_isZero hm2) hv2 (.inl hm2)
  have hkey1 : orderKey (A.add v0 (A.mul v.m1 t.v1)) = orderKey v0 := orderKey_add_of_isZero hA hv0 h1
  have hfin1 : isFinite (A.add v0 (A.mul v.m1 t.v1)) = true := (isFinite_congr hkey1).trans hv0
  have hkey : orderKey (svfOutput A v v0 t) = orderKey v0 := by
    rw [svfOutput, hm0, one_mul_of_isFinite hA hv0, orderKey_add_of_isZero hA hfin1 h2, hkey1]
  have hfin : isFinite (svfOutput A v v0 t) = true := (isFinite_congr hkey).trans hv0
  exact feq_iff.2 ⟨not_isNaN_of_isFinite hfin, not_isNaN_of_isFinite hv0, hkey⟩

end

/-- Settles O34: a coherent unity shelf has the mix triple (1.0, ±0.0, ±0.0), under which `SVF.PROC` answers its input. -/
theorem unityShelfIsIdentity : Obligations.UnityShelfIsIdentity := by
  intro s t inst rd rs1 u hrun hi hu hcoh hdef hftz hkind hgain hk hx hv1 hv2 hexec
  rw [exec_svfProc rd rs1 hrun hi hu] at hexec
  cases hexec
  have hcoefs : u.recompute s.cfg = u := hcoh inst u hu
  rw [Svf.recompute, svfStrategy_default hdef, hgain] at hcoefs
  obtain ⟨hm0, hm1, hm2⟩ := svfDefault_unityShelf (A := s.fp) hftz s.cfg.nanShelf hkind u.f u.sr hk
  have hy := svfOutput_of_unityMix (A := s.fp) (v := u) hftz (hcoefs ▸ hm0) (hcoefs ▸ hm1) (hcoefs ▸ hm2) hx hv1 hv2
  change feq (((s.setSvf inst (svfStep s.fp u (s.getX rs1)).2).setX rd (svfStep s.fp u (s.getX rs1)).1).getX rd)
    (s.getX rs1) = true
  rw [State.getX_setX_same]
  exact hy

/-! ## NaN coefficients of an SVF (R144, 43_splitter R171) -/

/-- A NaN gain `g` makes the three feedback coefficients of a core NaN. -/
theorem isNaN_svfCore {A : Arith} {g : F64} (q : F64) (hg : isNaN g = true) :
    isNaN (svfCore A g q).a1 = true ∧ isNaN (svfCore A g q).a2 = true ∧ isNaN (svfCore A g q).a3 = true := by
  simp only [svfCore]
  exact ⟨isNaN_div (.inr (isNaN_add (.inr (isNaN_mul (.inl hg))))), isNaN_mul (.inl hg), isNaN_mul (.inl hg)⟩

/-- The argument `g` of `SvfCore` under each default strategy (R140 to R143). -/
def coreGain (A : Arith) (f sr gain : F64) : FilterKind → F64
  | .lp | .hp | .ap => preWarp A f sr
  | .ls => A.div (preWarp A f sr) (A.sqrt (A.sqrt gain))
  | .hs => A.mul (preWarp A f sr) (A.sqrt (A.sqrt gain))

/-- A NaN argument of `SvfCore` reaches the feedback coefficients of the strategy. -/
theorem isNaN_svfDefault_feedback (n : NanShelf) {A : Arith} {kind : FilterKind} {f sr gain : F64} (q : F64)
    (hg : isNaN (coreGain A f sr gain kind) = true) :
    isNaN (svfDefault n A kind f q sr gain).a1 = true ∧ isNaN (svfDefault n A kind f q sr gain).a2 = true ∧
    isNaN (svfDefault n A kind f q sr gain).a3 = true := by
  cases kind
  all_goals simp only [coreGain] at hg
  case lp => simp only [svfDefault, svfLowPass, SvfCore.mix]; exact isNaN_svfCore q hg
  case hp => simp only [svfDefault, svfHighPass, SvfCore.mix]; exact isNaN_svfCore q hg
  case ap => simp only [svfDefault, svfAllPass, SvfCore.mix]; exact isNaN_svfCore q hg
  case ls => simp only [svfDefault, svfLowShelf, SvfCore.mix]; exact isNaN_svfCore q hg
  case hs => simp only [svfDefault, svfHighShelf, SvfCore.mix]; exact isNaN_svfCore q hg

theorem isNaN_coreGain_of_isZero_rate {A : Arith} (hA : A.elementary = .regular) {sr : F64} (hsr : isZero sr = true)
    (kind : FilterKind) (f gain : F64) : isNaN (coreGain A f sr gain kind) = true := by
  have hwarp : isNaN (preWarp A f sr) = true :=
    isNaN_tanF (noAngle_of_not_isFinite hA (not_isFinite_div_of_isZero A _ hsr))
  cases kind
  case lp | hp | ap => exact hwarp
  case ls => exact isNaN_div (.inl hwarp)
  case hs => exact isNaN_mul (.inl hwarp)

/-- The six coefficients are NaN. -/
def SvfAllNaN (c : SvfCoefs) : Prop :=
  isNaN c.a1 = true ∧ isNaN c.a2 = true ∧ isNaN c.a3 = true ∧ isNaN c.m0 = true ∧ isNaN c.m1 = true ∧ isNaN c.m2 = true

section
variable {A : Arith} {gain : F64}

/-- A NaN gain under a low shelf whose `m0` follows 43_splitter R171 (log entry 14). -/
theorem allNaN_svfLowShelf (f q sr : F64) (h : isNaN gain = true) :
    SvfAllNaN (svfDefault .everyCoefficient A .ls f q sr gain) := by
  have hamp : isNaN (A.sqrt gain) = true := isNaN_sqrt h
  have hg : isNaN (coreGain A f sr gain .ls) = true := isNaN_div (.inr (isNaN_sqrt hamp))
  obtain ⟨h1, h2, h3⟩ := isNaN_svfDefault_feedback .everyCoefficient q hg
  have hnan : isNaN (lowShelfM0 .everyCoefficient gain) = true := by
    rw [lowShelfM0, if_pos ⟨rfl, h⟩]; exact isNaN_freeNaN ..
  obtain ⟨hm0, hm1, hm2⟩ := svfDefault_ls_mix .everyCoefficient A f q sr gain
  rw [SvfAllNaN, hm0, hm1, hm2]
  exact ⟨h1, h2, h3, hnan, isNaN_mul (.inr (isNaN_sub (.inl hamp))), isNaN_sub (.inl (isNaN_mul (.inl hamp)))⟩

/-- A NaN gain under a high shelf (43_splitter R171). -/
theorem allNaN_svfHighShelf (n : NanShelf) (f q sr : F64) (h : isNaN gain = true) :
    SvfAllNaN (svfDefault n A .hs f q sr gain) := by
  have hamp : isNaN (A.sqrt gain) = true := isNaN_sqrt h
  have hg : isNaN (coreGain A f sr gain .hs) = true := isNaN_mul (.inr (isNaN_sqrt hamp))
  obtain ⟨h1, h2, h3⟩ := isNaN_svfDefault_feedback n q hg
  obtain ⟨hm0, hm1, hm2⟩ := svfDefault_hs_mix n A f q sr gain
  rw [SvfAllNaN, hm0, hm1, hm2]
  exact ⟨h1, h2, h3, isNaN_mul (.inl hamp), isNaN_mul (.inr hamp), isNaN_sub (.inr (isNaN_mul (.inl hamp)))⟩

end

/-! ## Corner cases of the biquad strategies (R149) -/

/-- The common part, each value from those before it (R145). -/
theorem bqCore_eq (A : Arith) (f q sr : F64) :
    (bqCore A f q sr).cw = cosF A (A.div (A.mul (A.mul Const.two Const.pi) f) sr) ∧
    (bqCore A f q sr).alpha =
      A.div (sinF A (A.div (A.mul (A.mul Const.two Const.pi) f) sr)) (A.mul Const.two q) ∧
    (bqCore A f q sr).a0 = A.add Const.one (bqCore A f q sr).alpha ∧
    (bqCore A f q sr).a1 = A.div (A.mul Const.negTwo (bqCore A f q sr).cw) (bqCore A f q sr).a0 ∧
    (bqCore A f q sr).a2 = A.div (A.sub Const.one (bqCore A f q sr).alpha) (bqCore A f q sr).a0 := by
  simp only [bqCore, and_self]

/-- A sample rate of zero makes `a0`, by which every coefficient is divided, and the recursive part NaN. -/
theorem isNaN_bqCore {A : Arith} (hA : A.elementary = .regular) (f q : F64) {sr : F64} (hsr : isZero sr = true) :
    isNaN (bqCore A f q sr).a0 = true ∧ isNaN (bqCore A f q sr).a1 = true ∧ isNaN (bqCore A f q sr).a2 = true := by
  have hangle := noAngle_of_not_isFinite hA (not_isFinite_div_of_isZero A (A.mul (A.mul Const.two Const.pi) f) hsr)
  obtain ⟨-, halpha, ha0, ha1, ha2⟩ := bqCore_eq A f q sr
  have hnan : isNaN (bqCore A f q sr).a0 = true := by
    rw [ha0, halpha]; exact isNaN_add (.inr (isNaN_div (.inl (isNaN_sinF hangle))))
  rw [ha1, ha2]
  exact ⟨hnan, isNaN_div (.inr hnan), isNaN_div (.inr hnan)⟩

/-- The five coefficients are NaN. -/
def BqAllNaN (c : BqCoefs) : Prop :=
  isNaN c.b0 = true ∧ isNaN c.b1 = true ∧ isNaN c.b2 = true ∧ isNaN c.a1 = true ∧ isNaN c.a2 = true

theorem allNaN_bqStrategy {c : Cfg} (hbq : c.bqStrategies = .default) (hel : c.elementary = .regular) (f q : F64) {sr : F64}
    (hsr : isZero sr = true) {kind : FilterKind} (hkind : kind.forBiquad = true) : BqAllNaN (bqStrategy c kind f q sr) := by
  obtain ⟨ha0, ha1, ha2⟩ := isNaN_bqCore (A := fpOf c) hel f q hsr
  have hdiv (t : F64) : isNaN ((fpOf c).div t (bqCore (fpOf c) f q sr).a0) = true := isNaN_div (.inr ha0)
  cases kind
  case lp => simp only [BqAllNaN, bqStrategy_lp hbq, bqLowPass, hdiv, ha1, ha2, and_self]
  case hp => simp only [BqAllNaN, bqStrategy_hp hbq, bqHighPass, hdiv, ha1, ha2, and_self]
  case ap => simp only [BqAllNaN, bqStrategy_ap hbq, bqAllPass, hdiv, ha1, ha2, and_self]
  case ls | hs => cases hkind

/-- At a frequency of zero `cos` is 1.0 and `alpha` a zero. -/
theorem bqCore_of_isZero_freq {A : Arith} (hA : A.elementary = .regular) (hftz : A.ftz = false) {f q sr : F64}
    (hf : isZero f = true) (hsr : isFinite sr = true) (hsr0 : isZero sr = false) (hq : isNaN q = false)
    (hq0 : isZero q = false) : (bqCore A f q sr).cw = Const.one ∧ isZero (bqCore A f q sr).alpha = true := by
  have htau : isFinite (A.mul Const.two Const.pi) = true := isFinite_two_mul_pi hftz
  have hmul : isZero (A.mul (A.mul Const.two Const.pi) f) = true := isZero_mul A htau (isFinite_of_isZero hf) (.inr hf)
  have hw0 : isZero (A.div (A.mul (A.mul Const.two Const.pi) f) sr) = true :=
    isZero_div hftz hmul (not_isNaN_of_isFinite hsr) hsr0
  obtain ⟨hden, hden0⟩ := two_mul_ne_zero hftz hq hq0
  obtain ⟨hcw, halpha, -⟩ := bqCore_eq A f q sr
  rw [hcw, halpha]
  exact ⟨cosF_of_isZero hA hw0, isZero_div hftz (isZero_sinF hA hw0) hden hden0⟩

/-- The low-pass of a `cos` of 1.0 and a zero `alpha`. -/
theorem bqLowPass_of_isZero_freq {A : Arith} (hA : A.elementary = .regular) (hftz : A.ftz = false) {f q sr : F64}
    (hf : isZero f = true) (hsr : isFinite sr = true) (hsr0 : isZero sr = false) (hq : isNaN q = false)
    (hq0 : isZero q = false) :
    bqLowPass A f q sr = ⟨Const.zero, Const.zero, Const.zero, Const.negTwo, Const.one⟩ := by
  obtain ⟨hcw, halpha⟩ := bqCore_of_isZero_freq hA hftz hf hsr hsr0 hq hq0
  obtain ⟨hadd, hsub⟩ := one_add_sub_of_isZero hftz halpha
  obtain ⟨-, -, ha0, ha1, ha2⟩ := bqCore_eq A f q sr
  have hhalf : A.div Const.zero Const.two = Const.zero :=
    (div_of_isZero hftz (by decide) (by decide) (by decide)).trans (by decide)
  rw [bqLowPass, ha1, ha2, ha0, hadd, hcw, hsub, one_sub_one, hhalf, mul_one_of_isFinite hftz (by decide),
    div_one_of_isFinite hftz (by decide), div_one_of_isFinite hftz (by decide), div_one_of_isFinite hftz (by decide)]

/-- Settles O60: an angle over a zero rate is not finite, so its tangent, sine and cosine are NaN; at a zero frequency the
angle is a zero; a NaN shelf gain has a NaN root. -/
theorem filterCornerCases : Obligations.FilterCornerCases := by
  refine ⟨fun c f q sr gain hel hsr => ⟨fun hsvf kind => ?svf, fun hbq kind hkind => ?bq⟩,
    fun c f q sr hel hbq hftz hf hsr hsr0 hq hq0 => ?lowPass, fun c f sr u hnan hsvf hgain => ⟨?lo, ?hi⟩⟩
  case svf =>
    rw [svfStrategy_default hsvf]
    exact isNaN_svfDefault_feedback _ q (isNaN_coreGain_of_isZero_rate hel hsr kind f gain)
  case bq => exact allNaN_bqStrategy hbq hel f q hsr hkind
  case lowPass =>
    rw [bqStrategy_lp hbq]
    exact bqLowPass_of_isZero_freq hel hftz hf hsr hsr0 hq hq0
  case lo =>
    change SvfAllNaN (svfStrategy c .ls f c.qShelf sr u.gain)
    rw [svfStrategy_default hsvf, hnan]
    exact allNaN_svfLowShelf f c.qShelf sr hgain
  case hi =>
    change SvfAllNaN (svfStrategy c .hs f c.qShelf sr u.gain)
    rw [svfStrategy_default hsvf]
    exact allNaN_svfHighShelf c.nanShelf f c.qShelf sr hgain

end Sys2Proof.Machine
end

section
/-! Family 43_splitter, part 1. The splitter coefficients (43_splitter R176 (b)): `Configure` writes coefficients and
parameters and a sample's step writes history, so a slot that holds what `Configure` gives holds it after any sample. -/

namespace Sys2Proof.Machine

/-! ## A slot after a sample -/

section
variable {A : Arith} {c : Cfg} {x : F64}

theorem Biquad.withCoefs_bqStep {k : BqCoefs} {b : Biquad} (h : b.withCoefs k = b) :
    (bqStep A b x).2.withCoefs k = (bqStep A b x).2 :=
  congrArg (·.shift x (bqOutput A b x)) h

theorem Biquad.withCoefs_bqCascade {k k' : BqCoefs} {a b : Biquad} (ha : a.withCoefs k = a) (hb : b.withCoefs k' = b) :
    (bqCascade A a b x).2.1.withCoefs k = (bqCascade A a b x).2.1 ∧
    (bqCascade A a b x).2.2.withCoefs k' = (bqCascade A a b x).2.2 :=
  ⟨withCoefs_bqStep ha, withCoefs_bqStep hb⟩

theorem Svf.configured_svfStep {kind : FilterKind} {f q sr gain : F64} {v : Svf}
    (h : v.configured c kind f q sr gain = v) :
    (svfStep A v x).2.configured c kind f q sr gain = (svfStep A v x).2 :=
  congrArg (·.integrate A (svfTaps A v x)) h

/-- Configuring a slot twice is configuring it once. -/
theorem Svf.configured_configured (kind : FilterKind) (f q sr gain : F64) (v : Svf) :
    (v.configured c kind f q sr gain).configured c kind f q sr gain = v.configured c kind f q sr gain := rfl

end

/-! ## A splitter after a sample -/

/-- A split keeps every slot what `Configure` gives. -/
theorem configure_splitBands {c : Cfg} {p : Splitter} {x : F64} {r : List F64 × SplBody} (hp : configure c p = p)
    (h : splitBands c p.body x = some r) : configure c { p with body := r.2 } = { p with body := r.2 } := by
  obtain ⟨f1, sr, body⟩ := p
  cases body <;> simp only [configure, Splitter.mk.injEq, true_and, splitBands, Option.some.injEq] at hp h ⊢
  case b2x24 =>
    subst h
    obtain ⟨h0, h1, h2, h3⟩ := SplBody.b2x24.inj hp
    obtain ⟨k0, k1⟩ := Biquad.withCoefs_bqCascade h0 h1
    obtain ⟨k2, k3⟩ := Biquad.withCoefs_bqCascade h2 h3
    exact (SplBody.b2x24.injEq ..).mpr ⟨k0, k1, k2, k3⟩
  case b2x12 =>
    subst h
    obtain ⟨h0, h1⟩ := SplBody.b2x12.inj hp
    exact (SplBody.b2x12.injEq ..).mpr ⟨Svf.configured_svfStep h0, Svf.configured_svfStep h1⟩
  case b3x12 =>
    subst h
    obtain ⟨-, h0, h1, h2, h3, h4⟩ := SplBody.b3x12.inj hp
    exact (SplBody.b3x12.injEq ..).mpr ⟨rfl, Svf.configured_svfStep h0, Svf.configured_svfStep h1,
      Svf.configured_svfStep h2, Svf.configured_svfStep h3, Svf.configured_svfStep h4⟩
  case b3x24 =>
    subst h
    obtain ⟨-, h0, h1, h2, h3, h4, h5, h6, h7, h8⟩ := SplBody.b3x24.inj hp
    obtain ⟨k0, k1⟩ := Biquad.withCoefs_bqCascade h0 h1
    obtain ⟨k2, k3⟩ := Biquad.withCoefs_bqCascade h2 h3
    obtain ⟨k5, k6⟩ := Biquad.withCoefs_bqCascade h5 h6
    obtain ⟨k7, k8⟩ := Biquad.withCoefs_bqCascade h7 h8
    exact (SplBody.b3x24.injEq ..).mpr ⟨rfl, k0, k1, k2, k3, Biquad.withCoefs_bqStep h4, k5, k6, k7, k8⟩
  case dyn3 => cases h

/-- `SPL.GAIN` computes both shelves from the gains it stores, and a sample leaves those gains. -/
theorem configure_applyGain {c : Cfg} {p : Splitter} {x gl gm gh : F64} {r : F64 × Splitter}
    (h : applyGain c p x gl gm gh = some r) : configure c r.2 = r.2 := by
  obtain ⟨f1, sr, body⟩ := p
  cases body <;> simp only [applyGain, Option.some.injEq] at h
  case dyn3 =>
    subst h
    simp only [configure, Splitter.mk.injEq, true_and]
    exact (SplBody.dyn3.injEq ..).mpr ⟨rfl, Svf.configured_svfStep (Svf.configured_configured ..),
      Svf.configured_svfStep (Svf.configured_configured ..)⟩
  all_goals cases h

/-- The splitters a command may store are coherent if the stored ones are. -/
theorem SplSource.coherent {s : State} {k : Idx} {p : Splitter} (src : SplSource s k p) (hs : s.SplCoherent) :
    configure s.cfg p = p := by
  cases src with
  | configured h => exact h
  | split hp h => exact configure_splitBands (hs k _ hp) h
  | gained _ h => exact configure_applyGain h

theorem splCoherent_stepKept : StepKept State.SplCoherent where
  frame _ _ _ _ _ hs := hs
  raise _ _ _ _ hs := hs
  reset _ _ _ k p hp := absurd hp (bankGet_replicate_none k p)
  setBq _ _ _ hs := hs
  setSvf _ _ _ _ hs := hs
  setSpl s k p src hs i q hq := by
    rw [State.setSpl_spl, bankGet_bankSet] at hq
    split at hq
    · obtain rfl := Option.some.inj hq
      exact src.coherent hs
    · exact hs i q hq
  setEnv _ _ _ _ hs := hs
  setPat _ _ _ _ hs := hs
  setStg _ _ _ hs := hs

/-- Settles O15: a stored splitter was just configured, or a sample went through slots that hold what `Configure` gives. -/
theorem everyStepKeepsSplitterCoefficients : Obligations.EveryStepKeepsSplitterCoefficients :=
  fun _ _ hs h => splCoherent_stepKept.step hs h

end Sys2Proof.Machine
end

section
/-! Family 43_splitter, part 2. The commands of unit SPL on an instance in range with no fault recorded (43_splitter R155
to R175): what each does, said once, in terms of `Configure`, the pipelines and the state read. -/

namespace Sys2Proof.Machine

/-! ## Operands and results -/

/-- Two results go to consecutive registers (30_encoding R95). -/
theorem State.setBlock_two (s : State) (rd : Reg) (a b : U64) :
    s.setBlock rd [a, b] = { s with x := bankSet (bankSet s.x rd a) (rd + 1) b } := rfl

/-- Three results go to consecutive registers (30_encoding R95). -/
theorem State.setBlock_three (s : State) (rd : Reg) (a b c : U64) :
    s.setBlock rd [a, b, c] = { s with x := bankSet (bankSet (bankSet s.x rd a) (rd + 1) b) (rd + 2) c } := by
  have hreg : rd + 1 + 1 = rd + 2 := BitVec.add_assoc rd 1 1
  rw [← hreg]; rfl

/-! ## The commands -/

section
variable {s : State} {inst : Idx} {p : Splitter}

/-- With every check passed, a command whose rule completes on the splitter it selects is that rule's next state. -/
theorem command_withSpl {i : Instr} {k : Splitter → CmdOutcome} {rc : ResultCode} {t : State} (hrun : s.Running)
    (hi : inst.toNat < s.cfg.nSpl) (hp : bankGet s.spl inst = some p) (hk : k p = .completes rc t) :
    command i s (withSpl s inst k) = .next { t with rc := rc } := by
  rw [command_of_running hrun, withSpl_some hi hp, hk, settle_completes]

/-- With every check passed, a command whose rule faults on the splitter it selects writes the fault registers. -/
theorem command_withSpl_faults {i : Instr} {k : Splitter → CmdOutcome} {c : FaultCause} {info : Word32}
    (hrun : s.Running) (hi : inst.toNat < s.cfg.nSpl) (hp : bankGet s.spl inst = some p) (hk : k p = .faults c info) :
    command i s (withSpl s inst k) = .next (s.raise c (encode i) info) := by
  rw [command_of_running hrun, withSpl_some hi hp, hk, settle_faults]

theorem exec_splInit_twoBand (rs1 : Reg) {topo : Topo} (htopo : isTwoBand topo = true) (hrun : s.Running)
    (hi : inst.toNat < s.cfg.nSpl) :
    exec (.splInit inst rs1 topo) s = .next { s.setSpl inst
      (Splitter.fresh s.cfg topo (s.getX rs1) Const.zero (s.getX (rs1 + 1))) with rc := .ok } := by
  change execSplInit inst rs1 topo s = _
  rw [execSplInit, command_of_running hrun, checkInst_of_lt hi, settle_completes, if_pos htopo, State.xr_zero]
  rfl

theorem exec_splInit_threeBand (rs1 : Reg) {topo : Topo} (htopo : isTwoBand topo = false) (hrun : s.Running)
    (hi : inst.toNat < s.cfg.nSpl) :
    exec (.splInit inst rs1 topo) s = .next { s.setSpl inst
      (Splitter.fresh s.cfg topo (s.getX rs1) (s.getX (rs1 + 1)) (s.getX (rs1 + 2))) with rc := .ok } := by
  change execSplInit inst rs1 topo s = _
  rw [execSplInit, command_of_running hrun, checkInst_of_lt hi, settle_completes,
    if_neg (Bool.eq_false_iff.1 htopo), State.xr_zero]
  rfl

theorem exec_splSetf (rs1 : Reg) (hrun : s.Running) (hi : inst.toNat < s.cfg.nSpl)
    (hp : bankGet s.spl inst = some p) :
    exec (.splSetf inst rs1) s = .next { s.setSpl inst (configure s.cfg
      { p with f1 := s.getX rs1, body := p.body.withF2 (s.getX (rs1 + 1)) }) with rc := .ok } := by
  rw [← State.xr_zero s rs1]
  exact command_withSpl hrun hi hp rfl

theorem exec_splSplit (rd rs1 : Reg) {bands : List F64} {body : SplBody} (hrun : s.Running)
    (hi : inst.toNat < s.cfg.nSpl) (hp : bankGet s.spl inst = some p)
    (h : splitBands s.cfg p.body (s.getX rs1) = some (bands, body)) :
    exec (.splSplit inst rd rs1) s =
      .next { (s.setSpl inst { p with body := body }).setBlock rd bands with rc := .ok } :=
  command_withSpl hrun hi hp (by rw [h])

theorem exec_splSplit_none (rd rs1 : Reg) (hrun : s.Running) (hi : inst.toNat < s.cfg.nSpl)
    (hp : bankGet s.spl inst = some p) (h : splitBands s.cfg p.body (s.getX rs1) = none) :
    exec (.splSplit inst rd rs1) s = .next (s.raise .topology (encode (.splSplit inst rd rs1)) 0) :=
  command_withSpl_faults hrun hi hp (by rw [h])

theorem exec_splGain (rd rs1 rs2 : Reg) {y : F64} {q : Splitter} (hrun : s.Running) (hi : inst.toNat < s.cfg.nSpl)
    (hp : bankGet s.spl inst = some p) (h : applyGain s.cfg p (s.getX rs1) (s.getX rs2) (s.getX (rs2 + 1))
      (s.getX (rs2 + 2)) = some (y, q)) :
    exec (.splGain inst rd rs1 rs2) s = .next { (s.setSpl inst q).setX rd y with rc := .ok } := by
  have hx : applyGain s.cfg p (s.getX rs1) (s.xr rs2 0) (s.xr rs2 1) (s.xr rs2 2) = some (y, q) := by
    rw [State.xr_zero]; exact h
  exact command_withSpl hrun hi hp (by rw [hx])

theorem exec_splGain_none (rd rs1 rs2 : Reg) (hrun : s.Running) (hi : inst.toNat < s.cfg.nSpl)
    (hp : bankGet s.spl inst = some p) (h : ∀ x gl gm gh, applyGain s.cfg p x gl gm gh = none) :
    exec (.splGain inst rd rs1 rs2) s = .next (s.raise .topology (encode (.splGain inst rd rs1 rs2)) 0) :=
  command_withSpl_faults hrun hi hp (by rw [h])

theorem exec_splRd (rd : Reg) {slot field : BitVec 4} {v : U64} (hrun : s.Running) (hi : inst.toNat < s.cfg.nSpl)
    (hp : bankGet s.spl inst = some p) (hsel : splSelector slot field = true) (h : p.read slot field = some v) :
    exec (.splRd inst rd slot field) s = .next { s.setX rd v with rc := .ok } := by
  change execSplRd inst rd slot field s = _
  rw [execSplRd, if_pos hsel]
  exact command_withSpl hrun hi hp (by rw [h])

theorem exec_splRd_none (rd : Reg) {slot field : BitVec 4} (hrun : s.Running) (hi : inst.toNat < s.cfg.nSpl)
    (hp : bankGet s.spl inst = some p) (hsel : splSelector slot field = true) (h : p.read slot field = none) :
    exec (.splRd inst rd slot field) s = .next { s with rc := .index } := by
  change execSplRd inst rd slot field s = _
  rw [execSplRd, if_pos hsel]
  exact command_withSpl hrun hi hp (by rw [h])

end

/-! ## Construction and frequencies -/

/-- Settles O35: each topology's fresh slots are blank slots under `Configure`, which writes all but history and gain. -/
theorem splitterConstruction : Obligations.SplitterConstruction := by
  intro s inst rs1 hrun hi
  refine ⟨?b2x24, ?b2x12, ?b3x12, ?b3x24, ?dyn3⟩
  case b2x24 => exact exec_splInit_twoBand rs1 rfl hrun hi
  case b2x12 => exact exec_splInit_twoBand rs1 rfl hrun hi
  case b3x12 => exact exec_splInit_threeBand rs1 rfl hrun hi
  case b3x24 => exact exec_splInit_threeBand rs1 rfl hrun hi
  case dyn3 => exact exec_splInit_threeBand rs1 rfl hrun hi

/-- Settles O36: `SPL.SETF` is `Configure` at the new frequencies. -/
theorem splitterSetFrequencies : Obligations.SplitterSetFrequencies := by
  intro s inst rs1 f1 sr body hrun hi hp
  cases body <;> exact exec_splSetf rs1 hrun hi hp

/-! ## Bands and gains -/

/-- Settles O37: the pipeline of each topology, its bands in the registers from `rd`; the dynamic one has no bands. -/
theorem splitterSplits : Obligations.SplitterSplits := by
  intro s inst rd rs1 f1 sr body hrun hi hp
  cases body
  case b2x24 => exact exec_splSplit rd rs1 hrun hi hp rfl
  case b2x12 => exact exec_splSplit rd rs1 hrun hi hp rfl
  case b3x12 => exact (exec_splSplit rd rs1 hrun hi hp rfl).trans (by rw [State.setBlock_three]; rfl)
  case b3x24 => exact (exec_splSplit rd rs1 hrun hi hp rfl).trans (by rw [State.setBlock_three]; rfl)
  case dyn3 => exact exec_splSplit_none rd rs1 hrun hi hp rfl

/-- Settles O38: `applyGain` on the dynamic topology, the fault of the four isolating ones. -/
theorem splitterGain : Obligations.SplitterGain := by
  intro s inst rd rs1 rs2 f1 sr body hrun hi hp
  cases body
  case dyn3 => exact exec_splGain rd rs1 rs2 hrun hi hp rfl
  all_goals exact exec_splGain_none rd rs1 rs2 hrun hi hp fun _ _ _ _ => rfl

/-! ## State read (R175) -/

/-- A four-bit field and an eight-bit selector of the same number are the same selector. -/
theorem setWidth_eq_of_toNat {field : BitVec 4} {e : BitVec 8} (h : e.toNat = field.toNat) : field.setWidth 8 = e := by
  apply BitVec.eq_of_toNat_eq
  have hlt := field.isLt
  rw [BitVec.toNat_setWidth, h]
  omega

section
variable {field : BitVec 4}

theorem Slot.read_bq {e : BqField} (b : Biquad) (h : e.imm.toNat = field.toNat) :
    Slot.read field (.bq b) = some (b.read e) := by
  rw [Slot.read, setWidth_eq_of_toNat h, BqField.ofImm_imm]; rfl

theorem Slot.read_svf {e : SvfField} (v : Svf) (h : e.imm.toNat = field.toNat) :
    Slot.read field (.svf v) = some (v.read e) := by
  rw [Slot.read, setWidth_eq_of_toNat h, SvfField.ofImm_imm]; rfl

/-- A biquad has the fields 0 to 8 (40_biquad R115). -/
theorem Slot.read_bq_none (b : Biquad) (h : 8 < field.toNat) : Slot.read field (.bq b) = none := by
  have hfield : BqField.ofImm (field.setWidth 8) = none := by
    cases he : BqField.ofImm (field.setWidth 8) with
    | none => rfl
    | some e =>
      have himm := congrArg BitVec.toNat (BqField.imm_of_ofImm he)
      have hle : e.imm.toNat ≤ 8 := by cases e <;> decide
      have hlt := field.isLt
      rw [BitVec.toNat_setWidth] at himm
      omega
  rw [Slot.read, hfield]; rfl

end

theorem splSelector_slot {slot field : BitVec 4} (hslot : slot.toNat ≤ 8) (hfield : field.toNat ≤ 12) :
    splSelector slot field = true := by simp [splSelector, hslot, hfield]

/-- A slot below 15 is read by its type, where the topology uses it. -/
theorem Splitter.read_slot (p : Splitter) {slot : BitVec 4} (hslot : slot.toNat ≤ 8) (field : BitVec 4) :
    p.read slot field = (p.body.slots[slot.toNat]?).bind (Slot.read field) :=
  if_neg fun h => absurd hslot (by rw [h]; decide)

/-- Settles O39: slot 15 is the configuration, the others the slots of the topology, each read by its type. -/
theorem splitterRead : Obligations.SplitterRead := by
  intro s inst rd p hrun hi hp gives index
  have hgives : ∀ {slot field : BitVec 4} {v : U64}, splSelector slot field = true → p.read slot field = some v →
      gives slot field v := fun hsel h => exec_splRd rd hrun hi hp hsel h
  have hindex : ∀ {slot field : BitVec 4}, splSelector slot field = true → p.read slot field = none →
      index slot field := fun hsel h => exec_splRd_none rd hrun hi hp hsel h
  refine ⟨hgives rfl ?topo, hgives rfl rfl, ?f2, hgives rfl rfl, fun slot field hslot hfield =>
    ⟨fun b hb => ⟨fun e he => ?bq, fun hbig => ?bqNone⟩, fun u hu e he => ?svf, fun hnone => ?unused⟩⟩
  case topo =>
    change some (p.body.topo.imm.setWidth 64) = _
    cases p.body <;> rfl
  case f2 =>
    have hread : p.read 15 2 = p.body.f2 := rfl
    cases hbody : p.body <;> rw [hbody] at hread
    case b2x24 => exact hindex rfl hread
    case b2x12 => exact hindex rfl hread
    all_goals exact hgives rfl hread
  case bq =>
    refine hgives (splSelector_slot hslot hfield) ?_
    rw [p.read_slot hslot, hb]; exact Slot.read_bq b he
  case bqNone =>
    refine hindex (splSelector_slot hslot hfield) ?_
    rw [p.read_slot hslot, hb]; exact Slot.read_bq_none b hbig
  case svf =>
    refine hgives (splSelector_slot hslot hfield) ?_
    rw [p.read_slot hslot, hu]; exact Slot.read_svf u he
  case unused =>
    refine hindex (splSelector_slot hslot hfield) ?_
    rw [p.read_slot hslot, hnone]; rfl

end Sys2Proof.Machine
end

section
/-! Family 43_splitter, part 3. The shelf gain of two equal band gains (43_splitter R171): the difference of equal decibels
is +0.0 where they are finite and a NaN where they are not, and `FromDb` of them is 1.0 or a NaN. -/

namespace Sys2Proof.Machine

/-! ## The difference of equal operands -/

section
variable (A : Arith) {a : F64}

theorem sub_self_of_isFinite (h : isFinite a = true) : A.sub a a = Const.zero := by
  have hn := not_isNaN_of_isFinite h
  have hi := not_isInf_of_isFinite (isFinite_flush A h)
  have hi' : isInf (neg (A.flush a)) = false := not_isInf_of_isFinite (by rw [isFinite_neg]; exact isFinite_flush A h)
  have hsum : sumOf .sub (A.flush a) (neg (A.flush a)) = Const.zero := by
    rw [sumOf, if_neg (Bool.eq_false_iff.1 hi), if_neg (Bool.eq_false_iff.1 hi'), value_neg, Int.add_right_neg, msb_neg,
      Bool.and_not_self]
    rfl
  rw [Arith.sub, if_neg (by simp [hn]), hsum, flush_of_isZero A (by decide)]

theorem isNaN_sub_self_of_not_isFinite (h : isFinite a = false) : isNaN (A.sub a a) = true := by
  cases hn : isNaN a
  case true => exact isNaN_sub (.inl hn)
  case false =>
    have hi : isInf a = true := (isFinite_or_isInf hn).resolve_left (Bool.eq_false_iff.1 h)
    have hi' : isInf (neg a) = true := by rw [isInf, mag_neg]; exact hi
    have hsum : sumOf .sub a (neg a) = freeNaN .sub a (neg a) := by
      rw [sumOf, if_pos hi, if_pos (by simp [hi'])]
    rw [Arith.sub, if_neg (by simp [hn]), flush_of_not_isFinite A h, hsum,
      flush_of_not_isFinite A (not_isFinite_freeNaN ..)]
    exact isNaN_freeNaN ..

end

/-! ## Decibels (R170) -/

theorem clamp_of_isNaN {v : F64} (h : isNaN v = true) (lo hi : F64) : clamp v lo hi = v := by
  rw [clamp, lt, gt, lt, h]; simp

theorem fromDb_zero (A : Arith) : fromDb A Const.zero = Const.one := by
  have hquot : A.div Const.zero Const.twenty = Const.zero := by rcases A with ⟨_ | _, _ | _⟩ <;> decide +kernel
  rw [fromDb, hquot, powF_of_isZero A _ (by decide)]

theorem isNaN_fromDb (A : Arith) {d : F64} (h : isNaN d = true) : isNaN (fromDb A d) = true :=
  isNaN_powF A (isNaN_div (.inl h)) (by decide)

/-- 1.0 is +0.0 dB, whatever else is fixed of the logarithm (00_scope R13). -/
theorem isFinite_toDb_one (A : Arith) : isFinite (toDb A Const.one) = true := by
  rw [toDb, log10F_one]
  rcases A with ⟨_ | _, _ | _⟩ <;> decide +kernel

/-! ## The shelf gain of two equal band gains (R171) -/

section
variable (A : Arith) {g : F64}

theorem shelfGain_self (h : isFinite (toDb A g) = true) : shelfGain A g g = Const.one := by
  have hclamp : clamp Const.zero Const.negShelfDbClamp Const.shelfDbClamp = Const.zero := by decide
  rw [shelfGain, sub_self_of_isFinite A h, hclamp, fromDb_zero]

theorem isNaN_shelfGain_self (h : isFinite (toDb A g) = false) : isNaN (shelfGain A g g) = true := by
  have hsub := isNaN_sub_self_of_not_isFinite A h
  rw [shelfGain, clamp_of_isNaN hsub]
  exact isNaN_fromDb A hsub

end

/-- `SPL.GAIN` on the dynamic topology stores the two shelf gains (R172). -/
theorem exec_splGain_gains {s : State} {inst : Idx} (rd rs1 rs2 : Reg) {f1 sr f2 : F64} {s0 s1 : Svf} (hrun : s.Running)
    (hi : inst.toNat < s.cfg.nSpl) (hp : bankGet s.spl inst = some ⟨f1, sr, .dyn3 f2 s0 s1⟩) :
    ∃ t u0 u1, exec (.splGain inst rd rs1 rs2) s = .next t ∧ bankGet t.spl inst = some ⟨f1, sr, .dyn3 f2 u0 u1⟩ ∧
      u0.gain = shelfGain s.fp (s.getX rs2) (s.getX (rs2 + 1)) ∧
      u1.gain = shelfGain s.fp (s.getX (rs2 + 2)) (s.getX (rs2 + 1)) :=
  ⟨_, _, _, exec_splGain rd rs1 rs2 hrun hi hp rfl, bankGet_bankSet_same _ _ _, rfl, rfl⟩

/-- Settles O40: both shelf gains are that of `g` over `g`, 1.0 where `g` is finite in decibels and a NaN elsewhere. -/
theorem equalGainsGiveUnityShelves : Obligations.EqualGainsGiveUnityShelves := by
  intro s inst rd rs1 rs2 f1 sr f2 g s0 s1 hrun hi hp hl hm hh hfin hpos
  obtain ⟨t, u0, u1, hexec, hstored, hlo, hhi⟩ := exec_splGain_gains rd rs1 rs2 hrun hi hp
  rw [hl, hm] at hlo
  rw [hh, hm] at hhi
  refine ⟨t, u0, u1, hexec, hstored, fun hcase => ?unity, ?either⟩
  case unity =>
    have hdb : isFinite (toDb s.fp g) = true := by
      rcases hcase with hreg | rfl | hdb
      · exact isFinite_decibels (A := s.fp) hreg hfin hpos
      · exact isFinite_toDb_one s.fp
      · exact hdb
    exact ⟨hlo.trans (shelfGain_self s.fp hdb), hhi.trans (shelfGain_self s.fp hdb)⟩
  case either =>
    cases hdb : isFinite (toDb s.fp g)
    case true => exact .inl ⟨hlo.trans (shelfGain_self s.fp hdb), hhi.trans (shelfGain_self s.fp hdb)⟩
    case false =>
      have hnan := isNaN_shelfGain_self s.fp hdb
      exact .inr ⟨hlo ▸ hnan, hhi ▸ hnan⟩

end Sys2Proof.Machine
end

section
/-! Family 44_envelope, part 1. The commands of unit ENV on an instance in range with no fault recorded (44_envelope R181 to
R192): each is its rule's outcome on the envelope it selects. With them the formulas of the curves (R181, 45_pattern R212
to R215). -/

namespace Sys2Proof.Machine

/-! ## Phases (10_state R50) -/

section
variable {e : Envelope}

theorem Envelope.phase_eq_delay_iff : e.phase = .delay ↔ gt e.delayRem Const.zero = true := by
  rcases e.phase_cases with ⟨hd, hp⟩ | ⟨hd, -, hp⟩ | ⟨hd, -, -, hp⟩ | ⟨hd, -, -, hp⟩ <;> simp [hd, hp]

theorem Envelope.phase_eq_attack_iff :
    e.phase = .attack ↔ ¬ gt e.delayRem Const.zero = true ∧ gt e.attackRem Const.zero = true := by
  rcases e.phase_cases with ⟨hd, hp⟩ | ⟨hd, ha, hp⟩ | ⟨hd, ha, -, hp⟩ | ⟨hd, ha, -, hp⟩
  · simp [hd, hp]
  all_goals simp [hd, ha, hp]

theorem Envelope.phase_eq_release_iff : e.phase = .release ↔ ¬ gt e.delayRem Const.zero = true ∧
    ¬ gt e.attackRem Const.zero = true ∧ gt e.releaseRem Const.zero = true := by
  rcases e.phase_cases with ⟨hd, hp⟩ | ⟨hd, ha, hp⟩ | ⟨hd, ha, hr, hp⟩ | ⟨hd, ha, hr, hp⟩
  · simp [hd, hp]
  · simp [hd, ha, hp]
  all_goals simp [hd, ha, hr, hp]

theorem Envelope.phase_eq_complete_iff : e.phase = .complete ↔ ¬ gt e.delayRem Const.zero = true ∧
    ¬ gt e.attackRem Const.zero = true ∧ ¬ gt e.releaseRem Const.zero = true := by
  rcases e.phase_cases with ⟨hd, hp⟩ | ⟨hd, ha, hp⟩ | ⟨hd, ha, hr, hp⟩ | ⟨hd, ha, hr, hp⟩
  · simp [hd, hp]
  · simp [hd, ha, hp]
  all_goals simp [hd, ha, hr, hp]

end

/-! ## One tick and one release setting, by phase (R184, R188) -/

section
variable (s : State) (inst : Idx) (rd : Reg) {e : Envelope}

theorem tickEnv_of_delay (h : e.phase = .delay) : tickEnv s inst rd e = .completes .ok
    ((s.setEnv inst { e with delayRem := s.fp.sub e.delayRem Const.one }).setX rd Const.zero) := by
  rw [tickEnv, h]

theorem tickEnv_of_attack (h : e.phase = .attack) : tickEnv s inst rd e =
    tickWith s inst rd (applyCurve s e.acurve (fractionDone s.fp e.attackRem e.attack)) id
      { e with attackRem := s.fp.sub e.attackRem Const.one } := by
  rw [tickEnv, h]

theorem tickEnv_of_release (h : e.phase = .release) : tickEnv s inst rd e =
    tickWith s inst rd (applyCurve s e.rcurve (fractionDone s.fp e.releaseRem e.release)) (s.fp.sub Const.one)
      { e with releaseRem := s.fp.sub e.releaseRem Const.one } := by
  rw [tickEnv, h]

theorem tickEnv_of_complete (h : e.phase = .complete) : tickEnv s inst rd e = .completes .noValue s := by
  rw [tickEnv, h]

end

section
variable (A : Arith) {e : Envelope} (new : F64)

theorem Envelope.setRelease_of_complete (h : e.phase = .complete) : e.setRelease A new = e := by
  rw [Envelope.setRelease, h]

theorem Envelope.setRelease_before_release (h : e.phase = .delay ∨ e.phase = .attack) :
    e.setRelease A new = { e with release := new, releaseRem := new } := by
  rcases h with h | h <;> rw [Envelope.setRelease, h]

theorem Envelope.setRelease_of_full (h : e.phase = .release) (hfull : feq e.releaseRem e.release = true) :
    e.setRelease A new = { e with release := new, releaseRem := new } := by
  rw [Envelope.setRelease, h]; exact if_pos hfull

theorem Envelope.setRelease_mid_release (h : e.phase = .release) (hmid : feq e.releaseRem e.release = false) :
    e.setRelease A new = { e with release := new, releaseRem := A.mul e.releaseRem (A.div new e.release) } := by
  rw [Envelope.setRelease, h]; exact if_neg (Bool.eq_false_iff.1 hmid)

end

/-! ## The commands -/

section
variable {s : State} {inst : Idx} {e : Envelope}

/-- With every check passed, a command of the unit is its rule's outcome on the envelope it selects. -/
theorem command_withEnv {i : Instr} {k : Envelope → CmdOutcome} (hrun : s.Running) (hi : inst.toNat < s.cfg.nEnv)
    (he : bankGet s.env inst = some e) : command i s (withEnv s inst k) = settle (encode i) s (k e) := by
  rw [command_of_running hrun, withEnv_some hi he]

theorem exec_envInit (rs1 : Reg) {acurve rcurve : CurveSel} (hrun : s.Running) (hi : inst.toNat < s.cfg.nEnv)
    (hcurves : (curveExists s.cfg acurve && curveExists s.cfg rcurve) = true) :
    exec (.envInit inst rs1 acurve rcurve) s = .next { s.setEnv inst (Envelope.fresh s.fp (s.getX rs1)
      (s.getX (rs1 + 1)) (s.getX (rs1 + 2)) (s.getX (rs1 + 3)) acurve rcurve) with rc := .ok } := by
  change execEnvInit inst rs1 acurve rcurve s = _
  rw [execEnvInit, command_of_running hrun, checkInst_of_lt hi, if_pos hcurves, settle_completes, State.xr_zero]
  rfl

theorem exec_envInit_badCurve (rs1 : Reg) {acurve rcurve : CurveSel} (hrun : s.Running)
    (hi : inst.toNat < s.cfg.nEnv) (hcurves : (curveExists s.cfg acurve && curveExists s.cfg rcurve) = false) :
    exec (.envInit inst rs1 acurve rcurve) s =
      .next (s.raise .badInstance (encode (.envInit inst rs1 acurve rcurve)) 0) := by
  change execEnvInit inst rs1 acurve rcurve s = _
  rw [execEnvInit, command_of_running hrun, checkInst_of_lt hi, if_neg (Bool.eq_false_iff.1 hcurves), settle_faults]

variable (hrun : s.Running) (hi : inst.toNat < s.cfg.nEnv) (he : bankGet s.env inst = some e)
include hrun hi he

theorem exec_envTick (rd : Reg) :
    exec (.envTick inst rd) s = settle (encode (.envTick inst rd)) s (tickEnv s inst rd e) :=
  command_withEnv hrun hi he

theorem exec_envSetrel (rs1 : Reg) : exec (.envSetrel inst rs1) s =
    .next { s.setEnv inst (e.setRelease s.fp (s.getX rs1)) with rc := .ok } :=
  command_withEnv hrun hi he

theorem exec_envProg (rd : Reg) : exec (.envProg inst rd) s = .next { s.setX rd (fractionDone s.fp
    (sum3 s.fp e.delayRem e.attackRem e.releaseRem) (sum3 s.fp e.delay e.attack e.release)) with rc := .ok } :=
  command_withEnv hrun hi he

theorem exec_envDur (rd : Reg) : exec (.envDur inst rd) s =
    .next { s.setX rd (sum3 s.fp e.delay e.attack e.release) with rc := .ok } :=
  command_withEnv hrun hi he

theorem exec_envRd (rd : Reg) (field : EnvField) :
    exec (.envRd inst rd field) s = .next { s.setX rd (e.read field) with rc := .ok } :=
  command_withEnv hrun hi he

end

/-! ## Construction (R182) -/

/-- A selector names a curve unless it is that of a pattern at or above `N_PAT` (R181). -/
theorem curveExists_iff {c : Cfg} {sel : CurveSel} : curveExists c sel = true ↔ ∀ k, sel = .pat k → k.toNat < c.nPat := by
  cases sel with
  | sine => simp [curveExists]
  | ioSine => simp [curveExists]
  | pat k => simp [curveExists]

/-- Settles O41: both selectors exist, or one is a pattern's at or above `N_PAT`. -/
theorem envelopeConstruction : Obligations.EnvelopeConstruction := by
  intro s inst rs1 acurve rcurve hrun hi
  refine ⟨fun hcurves => ?stored, fun k hk hbig => ?fault⟩
  case stored =>
    refine exec_envInit rs1 hrun hi ?_
    rw [Bool.and_eq_true, curveExists_iff, curveExists_iff]
    exact ⟨fun k hk => hcurves k (.inl hk), fun k hk => hcurves k (.inr hk)⟩
  case fault =>
    refine exec_envInit_badCurve rs1 hrun hi (Bool.eq_false_iff.2 fun hboth => ?_)
    rw [Bool.and_eq_true, curveExists_iff, curveExists_iff] at hboth
    exact absurd (hk.elim (hboth.1 k) (hboth.2 k)) (Nat.not_lt.2 hbig)

/-! ## Ticks, release settings and queries (R184, R188 to R192) -/

/-- Settles O42: a delay, a curve's value or its fault in attack and in release, and nothing but `RC` when complete. -/
theorem envelopeTick : Obligations.EnvelopeTick := by
  intro s inst rd e hrun hi he
  have hexec := exec_envTick hrun hi he rd
  refine ⟨fun hd => ?delay, fun hd ha v hv => ?attack, fun hd ha c info hc => ?attackFault,
    fun hd ha hr v hv => ?release, fun hd ha hr c info hc => ?releaseFault, fun hd ha hr => ?complete⟩
  case delay => rw [hexec, tickEnv_of_delay s inst rd (Envelope.phase_eq_delay_iff.2 hd)]; rfl
  case attack =>
    rw [hexec, tickEnv_of_attack s inst rd (Envelope.phase_eq_attack_iff.2 ⟨hd, ha⟩), fractionDone, hv]; rfl
  case attackFault =>
    rw [hexec, tickEnv_of_attack s inst rd (Envelope.phase_eq_attack_iff.2 ⟨hd, ha⟩), fractionDone, hc]; rfl
  case release =>
    rw [hexec, tickEnv_of_release s inst rd (Envelope.phase_eq_release_iff.2 ⟨hd, ha, hr⟩), fractionDone, hv]; rfl
  case releaseFault =>
    rw [hexec, tickEnv_of_release s inst rd (Envelope.phase_eq_release_iff.2 ⟨hd, ha, hr⟩), fractionDone, hc]; rfl
  case complete =>
    rw [hexec, tickEnv_of_complete s inst rd (Envelope.phase_eq_complete_iff.2 ⟨hd, ha, hr⟩), settle_completes]

/-- The rescaling of R188's example is exact under every arithmetic: 50 by 200 over 100 is 100. -/
theorem rescale_example (A : Arith) : A.mul 0x4049000000000000#64
    (A.div 0x4069000000000000#64 0x4059000000000000#64) = 0x4059000000000000#64 := by
  rcases A with ⟨_ | _, _ | _⟩ <;> decide +kernel

/-- Settles O43: the phases of `set_release`; when complete the envelope stored is the one that was there. -/
theorem envelopeSetRelease : Obligations.EnvelopeSetRelease := by
  intro s inst rs1 e hrun hi he new put
  have hexec := exec_envSetrel hrun hi he rs1
  have hmid (hp : e.phase = .release) (hne : feq e.releaseRem e.release = false) : exec (.envSetrel inst rs1) s = .next
      (put { e with release := new, releaseRem := s.fp.mul e.releaseRem (s.fp.div new e.release) }) := by
    rw [hexec, Envelope.setRelease_mid_release _ _ hp hne]; rfl
  refine ⟨fun hp => ?complete, fun hp => ?before, fun hp hfull => ?full, hmid, fun hp htotal hrem hnew => ?doc⟩
  case complete =>
    have hsame : bankSet s.env inst (some e) = s.env := by rw [← he]; exact Vector.set_getElem_self _
    rw [hexec, Envelope.setRelease_of_complete _ _ hp, State.setEnv, hsame]
  case before => rw [hexec, Envelope.setRelease_before_release _ _ hp]; rfl
  case full => rw [hexec, Envelope.setRelease_of_full _ _ hp hfull]; rfl
  case doc => rw [hmid hp (by rw [hrem, htotal]; decide), hrem, htotal, hnew, rescale_example]

/-- The tag of a phase by its counters (10_state R50, 44_envelope R192). -/
theorem Envelope.phase_tag (e : Envelope) : e.phase.tag =
    if gt e.delayRem Const.zero = true then 0 else if gt e.attackRem Const.zero = true then 1
      else if gt e.releaseRem Const.zero = true then 2 else 3 := by
  rcases e.phase_cases with ⟨hd, hp⟩ | ⟨hd, ha, hp⟩ | ⟨hd, ha, hr, hp⟩ | ⟨hd, ha, hr, hp⟩
  · simp [hd, hp, Phase.tag]
  · simp [hd, ha, hp, Phase.tag]
  all_goals simp [hd, ha, hr, hp, Phase.tag]

/-- Two codes side by side are `rcurve*16 + acurve` (30_encoding R100). -/
theorem curvesImm_setWidth (acurve rcurve : CurveSel) : (curvesImm acurve rcurve).setWidth 64 =
    BitVec.ofNat 64 (rcurve.code.toNat * 16 + acurve.code.toNat) := by
  apply BitVec.eq_of_toNat_eq
  rw [curvesImm, BitVec.toNat_setWidth, BitVec.toNat_append, BitVec.toNat_ofNat,
    ← Nat.shiftLeft_add_eq_or_of_lt acurve.code.isLt, Nat.shiftLeft_eq]

/-- Settles O44: progress and duration are sums of the counters and totals, and six of the eight elements stored words. -/
theorem envelopeQueries : Obligations.EnvelopeQueries := by
  intro s inst rd e hrun hi he
  refine ⟨exec_envProg hrun hi he rd, exec_envDur hrun hi he rd,
    fun field => (exec_envRd hrun hi he rd field).trans ?_⟩
  cases field
  case phase => rw [Envelope.read, Envelope.phase_tag]; rfl
  case curves => rw [Envelope.read, curvesImm_setWidth]; rfl
  all_goals rfl

/-! ## Curves (R181, 45_pattern R212, R213, R215) -/

theorem applyCurve_pat {s : State} {k : BitVec 3} (hk : k.toNat < s.cfg.nPat) (x : F64) :
    applyCurve s (.pat k) x = patEval s.cfg (patIndex k) (s.getPat (patIndex k)) x := if_pos hk

section
variable (c : Cfg) {p1 p2 : Point} (x : F64)

theorem curveY_of_feq (h : feq p1.x p2.x = true) : curveY c p1 p2 x = p2.y := if_pos h

theorem sCurveY_of_feq (h : feq p1.x p2.x = true) : sCurveY c p1 p2 x = p2.y := if_pos h

end

/-- Settles O52: the easing functions and a pattern's evaluation are `applyCurve` by selector, the formulas of a segment
its two points with one x or with two. -/
theorem curveFormulas : Obligations.CurveFormulas := by
  refine ⟨fun s p => ⟨rfl, rfl, fun k hk => applyCurve_pat hk p⟩, fun c p1 p2 x => ⟨fun h => ?one, fun h => ?two⟩⟩
  case one => exact ⟨curveY_of_feq c x h, sCurveY_of_feq c x h⟩
  case two => exact ⟨if_neg (Bool.eq_false_iff.1 h), if_neg (Bool.eq_false_iff.1 h)⟩

end Sys2Proof.Machine
end

section
/-! Family 44_envelope, part 2. The order of the phases (44_envelope R183, R193 (c)): what a command may leave in the place
of an envelope is in no earlier phase. -/

namespace Sys2Proof.Machine

/-- A phase is passed when its counter and those before it are not above zero: where what is passed stays passed, the phase
is not earlier. -/
theorem Envelope.rank_le_of_passed {e f : Envelope}
    (hd : ¬ gt e.delayRem Const.zero = true → ¬ gt f.delayRem Const.zero = true)
    (ha : ¬ gt e.delayRem Const.zero = true → ¬ gt e.attackRem Const.zero = true → ¬ gt f.attackRem Const.zero = true)
    (hr : e.phase = .complete → ¬ gt f.releaseRem Const.zero = true) : e.phase.rank ≤ f.phase.rank := by
  cases hp : e.phase
  case delay => exact Nat.zero_le _
  case attack =>
    have hfd := hd (Envelope.phase_eq_attack_iff.1 hp).1
    rcases f.phase_cases with ⟨h, -⟩ | ⟨-, -, h⟩ | ⟨-, -, -, h⟩ | ⟨-, -, -, h⟩
    · exact absurd h hfd
    all_goals simp [h, Phase.rank]
  case release =>
    obtain ⟨hed, hea, -⟩ := Envelope.phase_eq_release_iff.1 hp
    rcases f.phase_cases with ⟨h, -⟩ | ⟨-, h, -⟩ | ⟨-, -, -, h⟩ | ⟨-, -, -, h⟩
    · exact absurd h (hd hed)
    · exact absurd h (ha hed hea)
    all_goals simp [h, Phase.rank]
  case complete =>
    obtain ⟨hed, hea, -⟩ := Envelope.phase_eq_complete_iff.1 hp
    rw [Envelope.phase_eq_complete_iff.2 ⟨hd hed, ha hed hea, hr hp⟩]

/-- A tick takes from a counter above zero, whose phase is not passed. -/
theorem Ticked.rank_le {A : Arith} {e f : Envelope} (h : Ticked A e f) : e.phase.rank ≤ f.phase.rank := by
  have hr : e.phase = .complete → ¬ gt e.releaseRem Const.zero = true :=
    fun hp => (Envelope.phase_eq_complete_iff.1 hp).2.2
  cases h with
  | delay h => exact Envelope.rank_le_of_passed (fun hn => absurd h hn) (fun _ hn => hn) hr
  | attack h => exact Envelope.rank_le_of_passed (fun hn => hn) (fun _ hn => absurd h hn) hr
  | release h => exact Envelope.rank_le_of_passed (fun hn => hn) (fun _ hn => hn) fun hp => absurd h (hr hp)

/-- A release setting keeps the counters of delay and attack (R188). -/
theorem Envelope.setRelease_counters (A : Arith) (e : Envelope) (new : F64) :
    (e.setRelease A new).delayRem = e.delayRem ∧ (e.setRelease A new).attackRem = e.attackRem := by
  unfold Envelope.setRelease
  cases e.phase
  case release => dsimp only; split <;> exact ⟨rfl, rfl⟩
  all_goals exact ⟨rfl, rfl⟩

/-- A release setting changes the release counter only, and that not when complete. -/
theorem Envelope.setRelease_rank_le (A : Arith) (e : Envelope) (new : F64) :
    e.phase.rank ≤ (e.setRelease A new).phase.rank := by
  by_cases hp : e.phase = .complete
  · rw [Envelope.setRelease_of_complete A new hp]
  · obtain ⟨hdelay, hattack⟩ := e.setRelease_counters A new
    exact Envelope.rank_le_of_passed (hdelay ▸ id) (fun _ => hattack ▸ id) fun hc => absurd hc hp

/-! ## Commands -/

/-- There is an envelope in the place `inst`, in no earlier phase than `e`. -/
def NotEarlierAt (inst : Idx) (e : Envelope) (t : State) : Prop :=
  ∃ f, bankGet t.env inst = some f ∧ e.phase.rank ≤ f.phase.rank

section
variable {i : Instr} {s t : State} {inst : Idx} {e : Envelope} (he : bankGet s.env inst = some e)
include he

theorem NotEarlierAt.of_env_eq (h : t.env = s.env) : NotEarlierAt inst e t := ⟨e, h ▸ he, le_rfl⟩

/-- A command on the envelope is enough to look at where its rule completes: a refusal and a fault leave the envelopes. -/
theorem NotEarlierAt.withEnv {k : Envelope → CmdOutcome} (h : command i s (withEnv s inst k) = .next t)
    (hk : ∀ rc u, k e = .completes rc u → NotEarlierAt inst e u) : NotEarlierAt inst e t := by
  rcases command_cases h with ⟨rfl, -⟩ | ⟨-, rc, u, hu, rfl⟩ | ⟨-, c, info, -, rfl⟩
  · exact .of_env_eq he rfl
  · rcases withEnv_cases s inst k with ⟨c, hout⟩ | ⟨-, e', he', hout⟩
    · cases hout.symm.trans hu
    · obtain rfl := Option.some.inj (he'.symm.trans he)
      exact hk rc u (hout.symm.trans hu)
  · exact .of_env_eq he rfl

theorem NotEarlierAt.tickEnv {rd : Reg} {rc : ResultCode} {u : State} (h : tickEnv s inst rd e = .completes rc u) :
    NotEarlierAt inst e u := by
  rcases tickEnv_env h with hsame | ⟨f, hf, hstore⟩
  · exact .of_env_eq he hsame
  · exact ⟨f, by rw [hstore, bankGet_bankSet_same], hf.rank_le⟩

/-- The commands of unit ENV other than `ENV.INIT`, on their own envelope; every other command leaves the place. -/
theorem exec_notEarlierAt (h : exec i s = .next t) (hsrst : i ≠ .srst) (hinit : i.op = .envInit → instOf i ≠ inst) :
    NotEarlierAt inst e t := by
  by_cases hsel : unitOf i = 4 ∧ instOf i = inst
  · obtain ⟨hunit, rfl⟩ := hsel
    rw [instOf_eq] at he hinit ⊢
    cases i
    case envInit => exact absurd rfl (hinit rfl)
    case envTick => exact .withEnv he h fun _ _ hu => .tickEnv he hu
    case envSetrel =>
      refine .withEnv he h fun rc u hu => ?_
      cases hu
      exact ⟨_, bankGet_bankSet_same .., e.setRelease_rank_le ..⟩
    case envProg | envDur | envRd =>
      refine .withEnv he h fun rc u hu => ?_
      cases hu
      exact .of_env_eq he rfl
    all_goals
      rw [unitOf_eq] at hunit
      cases hunit
  · refine ⟨e, ?_, le_rfl⟩
    rw [(exec_touchesOnly hsrst h).env inst (not_and_or.1 hsel), he]

end

/-- Settles O46: a tick takes from a counter that is not passed, a release setting leaves what is passed. -/
theorem phasesOnlyGoForward : Obligations.PhasesOnlyGoForward :=
  fun _ _ _ _ _ h hsrst hinit he => exec_notEarlierAt he h hsrst hinit

end Sys2Proof.Machine
end

section
/-! Family 44_envelope, part 3. The position in a phase, `1.0 -. (rem /. total)` (44_envelope R184, R187): on a counter above
zero and at or below its total it lies in the unit interval, and it does not fall as the counter falls. -/

namespace Sys2Proof.Machine

/-! ## Values above zero -/

theorem sign_of_pos {a : F64} (h : gt a Const.zero = true) : a.msb = false ∧ 0 < mag a := by
  have hk : orderKey Const.zero < orderKey a := (lt_iff.1 h).2.2
  rw [orderKey_zero] at hk
  unfold orderKey at hk
  split at hk
  · omega
  · next hs => exact ⟨by simpa using hs, by omega⟩

theorem mag_le_of_pos {a b : F64} (ha : gt a Const.zero = true) (hb : gt b Const.zero = true) (h : le a b = true) :
    mag a ≤ mag b := by
  have hk := (le_iff.1 h).2.2
  simpa [orderKey, sign_of_pos ha, sign_of_pos hb] using hk

theorem pos_of_pos_of_le {a b : F64} (ha : gt a Const.zero = true) (h : le a b = true) : gt b Const.zero = true := by
  obtain ⟨hz, -, hk⟩ := lt_iff.1 ha
  obtain ⟨-, hb, hk'⟩ := le_iff.1 h
  exact lt_iff.2 ⟨hz, hb, by omega⟩

theorem isFinite_of_pos_of_le {a b : F64} (ha : gt a Const.zero = true) (h : le a b = true) (hb : isFinite b = true) :
    isFinite a = true :=
  isFinite_iff.2 (lt_of_le_of_lt (mag_le_of_pos ha (pos_of_pos_of_le ha h) h) (isFinite_iff.1 hb))

theorem units_pos {a : F64} (hfin : isFinite a = true) (hpos : gt a Const.zero = true) : 0 < units (mag a) := by
  have hle := units_le_iff (isFinite_iff.1 hfin).le (Nat.zero_le infMag)
  have hmag := (sign_of_pos hpos).2
  rw [units_zero] at hle
  omega

theorem ofSignMag_le {m n : Nat} (h : m ≤ n) (hn : n ≤ infMag) : le (ofSignMag false m) (ofSignMag false n) = true := by
  have hlt := infMag_lt
  refine le_iff.2 ⟨not_isNaN_ofSignMag _ (h.trans hn), not_isNaN_ofSignMag _ hn, ?_⟩
  rw [orderKey_ofSignMag _ (by omega), orderKey_ofSignMag _ (by omega)]
  simpa using h

theorem flush_mono (A : Arith) {a b : F64} (h : le a b = true) : le (A.flush a) (A.flush b) = true := by
  obtain ⟨ha, hb, hk⟩ := le_iff.1 h
  exact le_iff.2 ⟨isNaN_flush A ha, isNaN_flush A hb, orderKey_flush_mono A hk⟩

/-! ## Quotients of operands above zero -/

/-- A finite operand above zero that flushing leaves as it is. -/
structure Steady (A : Arith) (a : F64) : Prop where
  finite : isFinite a = true
  pos : gt a Const.zero = true
  flush : A.flush a = a

/-- Below a finite value, without flushing, every value above zero is such an operand. -/
theorem Steady.of_pos_of_le {A : Arith} (hA : A.ftz = false) {a b : F64} (ha : gt a Const.zero = true)
    (h : le a b = true) (hb : isFinite b = true) : Steady A a :=
  ⟨isFinite_of_pos_of_le ha h hb, ha, flush_false hA a⟩

section
variable {A : Arith} {a b c : F64}

theorem Steady.div_eq (ha : Steady A a) (hb : Steady A b) :
    A.div a b = A.flush (ofSignMag false (roundRatio (units (mag a) * 2 ^ 1074) (units (mag b)))) := by
  obtain ⟨hsa, -⟩ := sign_of_pos ha.pos
  obtain ⟨hsb, hmb⟩ := sign_of_pos hb.pos
  have hz : isZero b = false := by simpa [isZero] using hmb.ne'
  rw [Arith.div, if_neg (by simp [not_isNaN_of_isFinite ha.finite, not_isNaN_of_isFinite hb.finite]), ha.flush, hb.flush,
    quotientOf, if_neg (by simp [not_isInf_of_isFinite ha.finite]), if_neg (by simp [not_isInf_of_isFinite hb.finite]),
    if_neg (by simp [hz]), hsa, hsb]
  rfl

theorem Steady.div_mono (ha : Steady A a) (hb : Steady A b) (hc : Steady A c) (h : le a b = true) :
    le (A.div a c) (A.div b c) = true := by
  rw [ha.div_eq hc, hb.div_eq hc]
  have hunits : units (mag a) ≤ units (mag b) :=
    (units_le_iff (isFinite_iff.1 ha.finite).le (isFinite_iff.1 hb.finite).le).2 (mag_le_of_pos ha.pos hb.pos h)
  have hpos := units_pos hc.finite hc.pos
  refine flush_mono A (ofSignMag_le (roundRatio_mono hpos hpos ?_) (roundRatio_le _ _))
  exact Nat.mul_le_mul_right _ (Nat.mul_le_mul_right _ hunits)

theorem Steady.div_mem (ha : Steady A a) (hb : Steady A b) (h : le a b = true) :
    inClosed Const.zero (A.div a b) Const.one = true := by
  have hpos := units_pos hb.finite hb.pos
  have hone : roundRatio (2 ^ 1074) 1 = mag Const.one := by
    rw [← units_one, ← Nat.mul_one (units _), roundRatio_units (by decide) Nat.one_pos]
  have hunits : units (mag a) ≤ units (mag b) :=
    (units_le_iff (isFinite_iff.1 ha.finite).le (isFinite_iff.1 hb.finite).le).2 (mag_le_of_pos ha.pos hb.pos h)
  have hround : roundRatio (units (mag a) * 2 ^ 1074) (units (mag b)) ≤ mag Const.one := by
    rw [← hone]
    refine roundRatio_mono hpos Nat.one_pos ?_
    rw [Nat.mul_one, Nat.mul_comm]
    exact Nat.mul_le_mul_left _ hunits
  have hlow := flush_mono A (ofSignMag_le (Nat.zero_le _) (roundRatio_le (units (mag a) * 2 ^ 1074) (units (mag b))))
  have hhigh := flush_mono A (ofSignMag_le hround (by decide))
  rw [flush_of_isZero A (isZero_ofSignMag_zero _)] at hlow
  have hflush : A.flush (ofSignMag false (mag Const.one)) = Const.one := by rcases A with ⟨_ | _, _ | _⟩ <;> decide
  rw [hflush] at hhigh
  rw [ha.div_eq hb]
  exact inClosed_iff.2 ⟨hlow, hhigh⟩

/-! ## Positions -/

theorem fractionDone_mem (ha : Steady A a) (hb : Steady A b) (h : le a b = true) :
    inClosed Const.zero (fractionDone A a b) Const.one = true :=
  one_sub_mem A (ha.div_mem hb h)

theorem fractionDone_anti (ha : Steady A a) (hb : Steady A b) (hc : Steady A c) (hab : le a b = true)
    (hbc : le b c = true) : le (fractionDone A b c) (fractionDone A a c) = true :=
  one_sub_le_one_sub A (isFinite_of_inClosed (ha.div_mem hc (f64_le_trans hab hbc)))
    (isFinite_of_inClosed (hb.div_mem hc hbc)) (ha.div_mono hb hc hab)

end

/-- Without flushing, a counter above zero that came down from one at or below a finite total is at no lesser position. -/
theorem fractionDone_le_of_counter_le {A : Arith} (hA : A.ftz = false) {total before after : F64}
    (hfin : isFinite total = true) (hle : le before total = true) (hpos : gt after Const.zero = true)
    (hdown : le after before = true) : le (fractionDone A before total) (fractionDone A after total) = true :=
  have hbefore := pos_of_pos_of_le hpos hdown
  have htotal := pos_of_pos_of_le hbefore hle
  fractionDone_anti (.of_pos_of_le hA hpos (f64_le_trans hdown hle) hfin) (.of_pos_of_le hA hbefore hle hfin)
    (.of_pos_of_le hA htotal (f64_le_refl (not_isNaN_of_isFinite hfin)) hfin) hdown hle

/-! ## From tick to tick (R187) -/

/-- A tick keeps the totals, and a counter that is no NaN does not rise. -/
theorem Ticked.counters {A : Arith} {e f : Envelope} (h : Ticked A e f) :
    (f.attack = e.attack ∧ f.release = e.release) ∧
    (isNaN e.attackRem = false → le f.attackRem e.attackRem = true) ∧
    (isNaN e.releaseRem = false → le f.releaseRem e.releaseRem = true) := by
  refine ⟨?totals, fun hn => ?attack, fun hn => ?release⟩
  case totals => cases h <;> exact ⟨rfl, rfl⟩
  case attack =>
    cases h with
    | attack hpos => exact sub_one_le A hpos
    | delay | release => exact f64_le_refl hn
  case release =>
    cases h with
    | release hpos => exact sub_one_le A hpos
    | delay | attack => exact f64_le_refl hn

/-- Settles O47: the counter of the phase is above zero after the tick, and came down from one at or below the total. -/
theorem positionsDoNotFall : Obligations.PositionsDoNotFall := by
  intro s t inst rd e f hftz h he hf
  have hA : s.fp.ftz = false := hftz
  obtain ⟨-, hattack, hrelease⟩ := f.counter_of_phase
  have hdown : (f.attack = e.attack ∧ f.release = e.release) ∧
      (isNaN e.attackRem = false → le f.attackRem e.attackRem = true) ∧
      (isNaN e.releaseRem = false → le f.releaseRem e.releaseRem = true) := by
    rcases envTick_ticked h he hf with rfl | ticked
    · exact ⟨⟨rfl, rfl⟩, f64_le_refl, f64_le_refl⟩
    · exact ticked.counters
  obtain ⟨⟨ha, hr⟩, hdownA, hdownR⟩ := hdown
  refine ⟨fun _ hp hfin hle => ?attack, fun _ hp hfin hle => ?release⟩
  case attack =>
    rw [ha]
    exact fractionDone_le_of_counter_le hA hfin hle (hattack hp) (hdownA (le_iff.1 hle).1)
  case release =>
    rw [hr]
    exact fractionDone_le_of_counter_le hA hfin hle (hrelease hp) (hdownR (le_iff.1 hle).1)

end Sys2Proof.Machine
end

section
/-! Family 44_envelope, part 4. Whole numbers of samples (00_scope R11): the values `n` below 2^53 are exact, and `n -. 1.0`
is `n - 1`, also under flushing. -/

namespace Sys2Proof.Machine

/-! ## Values by their order keys -/

theorem value_eq_of_orderKey_eq {a b : F64} (ha : isNaN a = false) (hb : isNaN b = false)
    (h : orderKey a = orderKey b) : value a = value b :=
  le_antisymm ((value_le_iff ha hb).2 h.le) ((value_le_iff hb ha).2 h.ge)

theorem value_zero : value Const.zero = 0 := by decide

theorem gt_zero_iff {a : F64} (h : isNaN a = false) : gt a Const.zero = true ↔ 0 < value a := by
  have hle := value_le_iff (b := Const.zero) h (by decide)
  rw [value_zero] at hle
  rw [gt, lt_iff, ← not_le, ← not_le, hle]
  simp [h, show isNaN Const.zero = false by decide]

/-! ## Whole numbers -/

theorem units_of_fraction (e : Nat) {f : Nat} (hf : f < 2 ^ 52) :
    units ((e + 1) * 2 ^ 52 + f) = (2 ^ 52 + f) * 2 ^ e := by
  have hmod : ((e + 1) * 2 ^ 52 + f) % 2 ^ 52 = f := by omega
  have hdiv : ((e + 1) * 2 ^ 52 + f) / 2 ^ 52 = e + 1 := by omega
  rw [units, if_neg (by omega), hmod, hdiv, Nat.add_sub_cancel]

/-- A whole number from 1 to 2^53 is a significand of 53 bits times a power of two. -/
theorem exists_mag_of_count {k : Nat} (h1 : 1 ≤ k) (hk : k < 2 ^ 53) : ∃ m, m < infMag ∧ units m = k * 2 ^ 1074 := by
  have h0 : k ≠ 0 := by omega
  have hlog : k.log2 ≤ 52 := Nat.lt_succ_iff.1 ((Nat.log2_lt h0).2 hk)
  have hlow : 2 ^ 52 ≤ k * 2 ^ (52 - k.log2) := by
    calc 2 ^ 52 = 2 ^ k.log2 * 2 ^ (52 - k.log2) := by rw [← pow_add]; congr 1; omega
      _ ≤ k * 2 ^ (52 - k.log2) := Nat.mul_le_mul_right _ (Nat.log2_self_le h0)
  have hhigh : k * 2 ^ (52 - k.log2) < 2 ^ 53 := by
    calc k * 2 ^ (52 - k.log2) < 2 ^ (k.log2 + 1) * 2 ^ (52 - k.log2) :=
          Nat.mul_lt_mul_of_pos_right Nat.lt_log2_self (by positivity)
      _ = 2 ^ 53 := by rw [← pow_add]; congr 1; omega
  have hscale : 2 ^ 1074 = 2 ^ (52 - k.log2) * 2 ^ (1022 + k.log2) := by rw [← pow_add]; congr 1; omega
  refine ⟨(1022 + k.log2 + 1) * 2 ^ 52 + (k * 2 ^ (52 - k.log2) - 2 ^ 52), ?_, ?_⟩
  · unfold infMag
    omega
  · rw [units_of_fraction _ (by omega), Nat.add_sub_cancel' hlow, hscale, Nat.mul_assoc]

theorem exists_isCount {k : Nat} (hk : k < 2 ^ 53) : ∃ c, isCount c k := by
  by_cases h0 : k = 0
  · exact ⟨Const.zero, by decide, by rw [h0, value_zero, Nat.cast_zero, zero_mul]⟩
  · obtain ⟨m, hm, hunits⟩ := exists_mag_of_count (Nat.one_le_iff_ne_zero.2 h0) hk
    have hlt : m < 2 ^ 63 := hm.trans infMag_lt
    refine ⟨ofSignMag false m, isFinite_iff.2 (by rwa [mag_ofSignMag _ hlt]), ?_⟩
    rw [value, msb_ofSignMag _ hlt, mag_ofSignMag _ hlt, if_neg Bool.false_ne_true, hunits, Nat.cast_mul,
      Nat.cast_pow, Nat.cast_ofNat]

theorem isCount_one : isCount Const.one 1 := by
  refine ⟨by decide, ?_⟩
  rw [value, if_neg (by decide), units_one, Nat.cast_pow, Nat.cast_ofNat, Nat.cast_one, one_mul]

section
variable {a b : F64} {m n : Nat}

theorem isCount.notNaN (h : isCount a n) : isNaN a = false := not_isNaN_of_isFinite h.1

theorem isCount.congr (h : isCount a m) (hmn : m = n) : isCount a n := hmn ▸ h

theorem isCount.pos_iff (h : isCount a n) : gt a Const.zero = true ↔ 0 < n := by
  have hunit : (0 : Int) < 2 ^ 1074 := by positivity
  rw [gt_zero_iff h.notNaN, h.2, mul_pos_iff_of_pos_right hunit, Nat.cast_pos]

theorem isCount.le_of_le (ha : isCount a m) (hb : isCount b n) (h : m ≤ n) : le a b = true := by
  refine le_iff.2 ⟨ha.notNaN, hb.notNaN, (value_le_iff ha.notNaN hb.notNaN).1 ?_⟩
  rw [ha.2, hb.2]
  exact mul_le_mul_of_nonneg_right (Nat.cast_le.2 h) (by positivity)

/-- A value that orders as a whole number is that number, but for the sign of a zero. -/
theorem isCount.of_orderKey_eq (hb : isCount b n) (h : orderKey a = orderKey b) : isCount a n := by
  have hfin : isFinite a = true := (isFinite_congr h).trans hb.1
  exact ⟨hfin, (value_eq_of_orderKey_eq (not_isNaN_of_isFinite hfin) hb.notNaN h).trans hb.2⟩

/-- A whole number is no subnormal: it is a zero, or 1.0 or more. -/
theorem isCount.flush_eq (A : Arith) (h : isCount a n) : A.flush a = a := by
  by_cases h0 : n = 0
  · have hkey : orderKey a = 0 := by
      rw [← keyOf_value h.notNaN, h.2, h0, Nat.cast_zero, zero_mul]
      rfl
    have hmag : mag a = 0 := by unfold orderKey at hkey; split at hkey <;> omega
    exact flush_of_isZero A (isZero_iff.2 hmag)
  · have hpos : 0 < n := Nat.pos_of_ne_zero h0
    have hone : mag Const.one ≤ mag a :=
      mag_le_of_pos (by decide) (h.pos_iff.2 hpos) (isCount_one.le_of_le h hpos)
    have hnormal : isSubnormal a = false := by
      rw [isSubnormal, decide_eq_false (Nat.not_lt.2 (le_trans (by decide) hone)), Bool.and_false]
    rw [Arith.flush, hnormal, Bool.and_false, if_neg Bool.false_ne_true]

theorem isCount.steady (A : Arith) (h : isCount a n) (hn : 0 < n) : Steady A a :=
  ⟨h.1, h.pos_iff.2 hn, h.flush_eq A⟩

/-- Taking 1.0 from a whole number from 1 to 2^53 is exact. -/
theorem isCount.sub_one (A : Arith) (h : isCount a n) (hn : 0 < n) (hlt : n < 2 ^ 53) :
    isCount (A.sub a Const.one) (n - 1) := by
  obtain ⟨c, hc⟩ := exists_isCount (k := n - 1) (by omega)
  obtain ⟨-, hsub, hkey⟩ := sub_finite A h.1 isCount_one.1
  have hvalue : value (A.flush a) - value (A.flush Const.one) = value c := by
    rw [h.flush_eq A, isCount_one.flush_eq A, h.2, isCount_one.2, hc.2, Nat.cast_sub hn, sub_mul]
  rw [hvalue, keyOf_value hc.notNaN] at hkey
  have hsum := isCount.of_orderKey_eq hc hkey
  rw [hsub, hsum.flush_eq A]
  exact hsum

end

end Sys2Proof.Machine
end

section
/-! Family 44_envelope, part 5. A run of ticks (44_envelope R184, R186): on a machine that meets the invariant and holds no
unimplemented kind every curve has a value on the unit interval, so the counters run down one after the other. -/

namespace Sys2Proof.Machine

/-! ## Curves on the unit interval (R181, 45_pattern R210) -/

/-- From the first point's x to the last one's some segment brackets every position. -/
theorem bracket_ne_none {x : F64} {a : Point} {l : List Point} (n : Nat) (hl : l ≠ [])
    (hlow : le a.x x = true) (hhigh : ∀ b, l.getLast? = some b → le x b.x = true) (hnan : ∀ q ∈ l, isNaN q.x = false) :
    bracket x n (a :: l) ≠ none := by
  induction l generalizing a n with
  | nil => exact absurd rfl hl
  | cons b rest ih =>
    rw [bracket]
    split
    · exact Option.some_ne_none _
    · next hno =>
      have hright : le x b.x = false := by simpa [hlow] using hno
      have hleft : le b.x x = true := f64_le_total (le_iff.1 hlow).2.1 (hnan b List.mem_cons_self) hright
      have hrest : rest ≠ [] := by
        rintro rfl
        rw [hhigh b rfl] at hright
        cases hright
      refine ih (n + 1) hrest hleft (fun c hc => hhigh c ?_) fun q hq => hnan q (List.mem_cons_of_mem _ hq)
      rw [List.getLast?_cons, hc]
      rfl

/-- A well-formed pattern brackets every position of the unit interval (10_state R53). -/
theorem Pattern.bracket_ne_none {c : Cfg} {p : Pattern} (hp : p.wf c = true) {x : F64}
    (hx : inClosed Const.zero x Const.one = true) : bracket x 0 p.pts ≠ none := by
  obtain ⟨-, hfirst, hlast, -, hvalid⟩ := Pattern.wf_iff.1 hp
  obtain ⟨hlow, hhigh⟩ := inClosed_iff.1 hx
  refine Machine.bracket_ne_none 0 (by simp) (f64_le_trans (feq_iff_le_le.1 hfirst).1 hlow) (fun b hb => ?_) fun q hq => ?_
  · obtain rfl : p.last = b := by simpa using hb
    exact f64_le_trans hhigh (feq_iff_le_le.1 hlast).2
  · exact not_isNaN_of_isFinite (Point.isFinite_x (hvalid q (List.mem_cons_of_mem _ hq)))

theorem segmentY_ok (c : Cfg) (k : Idx) (j : Nat) {a : Point} (b : Point) (x : F64)
    (h : CurveKind.implemented a.kind = true) : ∃ y, segmentY c k j a b x = .ok y := by
  unfold segmentY
  cases hk : a.kind <;> rw [hk] at h
  case hold | curve | sCurve => exact ⟨_, rfl⟩
  all_goals cases h

theorem patEval_ok {c : Cfg} {p : Pattern} (k : Idx) (hp : p.wf c = true)
    (himpl : ∀ q ∈ p.pts, CurveKind.implemented q.kind = true) {x : F64}
    (hx : inClosed Const.zero x Const.one = true) : ∃ y, patEval c k p x = .ok y := by
  rcases patEval_cases c k p x with ⟨hnone, -⟩ | ⟨j, a, b, hsome, heval⟩
  · exact absurd hnone (p.bracket_ne_none hp hx)
  · obtain ⟨-, hget, -⟩ := bracket_eq_some hsome
    rw [heval]
    exact segmentY_ok c k j b x (himpl a (List.mem_of_getElem? hget))

theorem applyCurve_ok {s : State} (hs : s.Inv) (himpl : s.CurvesImplemented) {sel : CurveSel}
    (hsel : curveExists s.cfg sel = true) {x : F64} (hx : inClosed Const.zero x Const.one = true) :
    ∃ v, applyCurve s sel x = .ok v := by
  cases sel with
  | sine => exact ⟨_, rfl⟩
  | ioSine => exact ⟨_, rfl⟩
  | pat k =>
    obtain ⟨-, -, hpat, -⟩ := State.inv_iff.1 hs
    rw [applyCurve_pat (curveExists_iff.1 hsel k rfl)]
    exact patEval_ok _ (hpat _) (himpl _) hx

/-! ## The envelope after `n` ticks (R186) -/

/-- The envelope of totals `D`, `A`, `R` after `n` ticks from full: the delay counter runs down to 0, then the attack
counter, then the release counter. -/
structure Envelope.CountsDown (D A R n : Nat) (f : Envelope) : Prop where
  attack : isCount f.attack A
  release : isCount f.release R
  delayRem : isCount f.delayRem (D - n)
  attackRem : isCount f.attackRem (A - (n - D))
  releaseRem : isCount f.releaseRem (R - (n - (D + A)))

/-- The phase after `n` ticks from full. -/
def phaseAfter (D A R n : Nat) : Phase :=
  if n < D then .delay else if n < D + A then .attack else if n < D + A + R then .release else .complete

section
variable {D A R n : Nat} {f : Envelope} (h : f.CountsDown D A R n)
include h

theorem Envelope.CountsDown.phase_eq : f.phase = phaseAfter D A R n := by
  have hd := h.delayRem.pos_iff
  have ha := h.attackRem.pos_iff
  have hr := h.releaseRem.pos_iff
  unfold phaseAfter
  split
  · exact Envelope.phase_eq_delay_iff.2 (hd.2 (by omega))
  · have hd' : ¬ gt f.delayRem Const.zero = true := mt hd.1 (by omega)
    split
    · exact Envelope.phase_eq_attack_iff.2 ⟨hd', ha.2 (by omega)⟩
    · have ha' : ¬ gt f.attackRem Const.zero = true := mt ha.1 (by omega)
      split
      · exact Envelope.phase_eq_release_iff.2 ⟨hd', ha', hr.2 (by omega)⟩
      · exact Envelope.phase_eq_complete_iff.2 ⟨hd', ha', mt hr.1 (by omega)⟩

theorem Envelope.CountsDown.delay_tick (B : Arith) (hn : n < D) (hD : D < 2 ^ 53) :
    ({ f with delayRem := B.sub f.delayRem Const.one } : Envelope).CountsDown D A R (n + 1) where
  attack := h.attack
  release := h.release
  delayRem := h.delayRem.sub_one B (by omega) (by omega)
  attackRem := h.attackRem.congr (by omega)
  releaseRem := h.releaseRem.congr (by omega)

theorem Envelope.CountsDown.attack_tick (B : Arith) (hD : D ≤ n) (hn : n < D + A) (hA : A < 2 ^ 53) :
    ({ f with attackRem := B.sub f.attackRem Const.one } : Envelope).CountsDown D A R (n + 1) where
  attack := h.attack
  release := h.release
  delayRem := h.delayRem.congr (by omega)
  attackRem := (h.attackRem.sub_one B (by omega) (by omega)).congr (by omega)
  releaseRem := h.releaseRem.congr (by omega)

theorem Envelope.CountsDown.release_tick (B : Arith) (hA : D + A ≤ n) (hn : n < D + A + R) (hR : R < 2 ^ 53) :
    ({ f with releaseRem := B.sub f.releaseRem Const.one } : Envelope).CountsDown D A R (n + 1) where
  attack := h.attack
  release := h.release
  delayRem := h.delayRem.congr (by omega)
  attackRem := h.attackRem.congr (by omega)
  releaseRem := (h.releaseRem.sub_one B (by omega) (by omega)).congr (by omega)

theorem Envelope.CountsDown.after_complete (hR : D + A + R ≤ n) : f.CountsDown D A R (n + 1) where
  attack := h.attack
  release := h.release
  delayRem := h.delayRem.congr (by omega)
  attackRem := h.attackRem.congr (by omega)
  releaseRem := h.releaseRem.congr (by omega)

theorem Envelope.CountsDown.attack_position (B : Arith) (hD : D ≤ n) (hn : n < D + A) :
    inClosed Const.zero (fractionDone B f.attackRem f.attack) Const.one = true :=
  fractionDone_mem (h.attackRem.steady B (by omega)) (h.attack.steady B (by omega))
    (h.attackRem.le_of_le h.attack (by omega))

theorem Envelope.CountsDown.release_position (B : Arith) (hA : D + A ≤ n) (hn : n < D + A + R) :
    inClosed Const.zero (fractionDone B f.releaseRem f.release) Const.one = true :=
  fractionDone_mem (h.releaseRem.steady B (by omega)) (h.release.steady B (by omega))
    (h.releaseRem.le_of_le h.release (by omega))

end

/-! ## The machine after `n` ticks -/

/-- A machine on which `ENV.TICK` of `inst` runs without a fault, its envelope `f` after `n` ticks from full. -/
structure Ticking (inst : Idx) (D A R n : Nat) (s : State) (f : Envelope) : Prop where
  inv : s.Inv
  running : s.Running
  curves : s.CurvesImplemented
  inRange : inst.toNat < s.cfg.nEnv
  stored : bankGet s.env inst = some f
  counts : f.CountsDown D A R n

section
variable {inst : Idx} {D A R n : Nat} {s : State} {f : Envelope} (h : Ticking inst D A R n s f) (rd : Reg)
include h

theorem Ticking.curve_ok {sel : CurveSel} (hsel : sel = f.acurve ∨ sel = f.rcurve) {x : F64}
    (hx : inClosed Const.zero x Const.one = true) : ∃ v, applyCurve s sel x = .ok v := by
  obtain ⟨-, -, -, -, henv⟩ := State.inv_iff.1 h.inv
  have hwf := henv inst f h.stored
  rw [Envelope.wf, Bool.and_eq_true] at hwf
  refine applyCurve_ok h.inv h.curves ?_ hx
  rcases hsel with rfl | rfl
  · exact hwf.1
  · exact hwf.2

/-- Where a tick completes with an envelope of one tick more, the machine ticks on. -/
theorem Ticking.next_of_completes {g : Envelope} {v : F64}
    (hk : tickEnv s inst rd f = .completes .ok ((s.setEnv inst g).setX rd v)) (hg : g.CountsDown D A R (n + 1)) :
    ∃ u, exec (.envTick inst rd) s = .next u ∧ Ticking inst D A R (n + 1) u g ∧ u.rc = .ok := by
  have hexec := exec_envTick h.running h.inRange h.stored rd
  rw [hk, settle_completes] at hexec
  refine ⟨_, hexec, ?_, rfl⟩
  exact ⟨inv_stepKept.exec h.inv hexec, h.running, h.curves, h.inRange, bankGet_bankSet_same .., hg⟩

theorem Ticking.next_of_complete (hR : D + A + R ≤ n) :
    exec (.envTick inst rd) s = .next { s with rc := .noValue } ∧
    Ticking inst D A R (n + 1) { s with rc := .noValue } f := by
  have hphase : f.phase = .complete := by
    rw [h.counts.phase_eq, phaseAfter, if_neg (by omega), if_neg (by omega), if_neg (by omega)]
  have hexec := exec_envTick h.running h.inRange h.stored rd
  rw [tickEnv_of_complete s inst rd hphase, settle_completes] at hexec
  exact ⟨hexec, inv_stepKept.exec h.inv hexec, h.running, h.curves, h.inRange, h.stored, h.counts.after_complete hR⟩

variable (hD : D < 2 ^ 53) (hA : A < 2 ^ 53) (hR : R < 2 ^ 53)
include hD hA hR

theorem Ticking.next_of_counting (hn : n < D + A + R) :
    ∃ u g, exec (.envTick inst rd) s = .next u ∧ Ticking inst D A R (n + 1) u g ∧ u.rc = .ok := by
  have hphase := h.counts.phase_eq
  rcases Nat.lt_or_ge n D with hdelay | hdelay
  · rw [phaseAfter, if_pos hdelay] at hphase
    exact (h.next_of_completes rd (tickEnv_of_delay s inst rd hphase) (h.counts.delay_tick s.fp hdelay hD)).imp
      fun u hu => ⟨_, hu⟩
  rcases Nat.lt_or_ge n (D + A) with hattack | hattack
  · rw [phaseAfter, if_neg (by omega), if_pos hattack] at hphase
    obtain ⟨v, hv⟩ := h.curve_ok (.inl rfl) (h.counts.attack_position s.fp hdelay hattack)
    have hk := tickEnv_of_attack s inst rd hphase
    rw [hv] at hk
    exact (h.next_of_completes rd hk (h.counts.attack_tick s.fp hdelay hattack hA)).imp fun u hu => ⟨_, hu⟩
  · rw [phaseAfter, if_neg (by omega), if_neg (by omega), if_pos hn] at hphase
    obtain ⟨v, hv⟩ := h.curve_ok (.inr rfl) (h.counts.release_position s.fp hattack hn)
    have hk := tickEnv_of_release s inst rd hphase
    rw [hv] at hk
    exact (h.next_of_completes rd hk (h.counts.release_tick s.fp hattack hn hR)).imp fun u hu => ⟨_, hu⟩

/-- One tick more: `OK` while a counter is above zero, `NOVALUE` and nothing else afterwards. -/
theorem Ticking.next : ∃ u g, exec (.envTick inst rd) s = .next u ∧ Ticking inst D A R (n + 1) u g ∧
    (n < D + A + R → u.rc = .ok) ∧ (D + A + R ≤ n → u = { s with rc := .noValue }) := by
  rcases Nat.lt_or_ge n (D + A + R) with hn | hn
  · obtain ⟨u, g, hexec, hu, hrc⟩ := h.next_of_counting rd hD hA hR hn
    exact ⟨u, g, hexec, hu, fun _ => hrc, fun hge => absurd hn (Nat.not_lt.2 hge)⟩
  · obtain ⟨hexec, hu⟩ := h.next_of_complete rd hn
    exact ⟨_, f, hexec, hu, fun hlt => absurd hlt (Nat.not_lt.2 hn), fun _ => rfl⟩

end

/-- `n` ticks on a machine `m` ticks from full make it `m + n` ticks from full. -/
theorem Ticking.execTimes {inst : Idx} {D A R m : Nat} {s : State} {f : Envelope} (h : Ticking inst D A R m s f)
    (rd : Reg) (hD : D < 2 ^ 53) (hA : A < 2 ^ 53) (hR : R < 2 ^ 53) (n : Nat) :
    ∃ t g, execTimes (.envTick inst rd) n s = some t ∧ Ticking inst D A R (m + n) t g := by
  induction n generalizing m s f with
  | zero => exact ⟨s, f, rfl, h⟩
  | succ n ih =>
    obtain ⟨u, g, hexec, hu, -⟩ := h.next rd hD hA hR
    obtain ⟨t, k, htimes, ht⟩ := ih hu
    refine ⟨t, k, ?_, ?_⟩
    · rw [Machine.execTimes, hexec]
      exact htimes
    · rw [show m + (n + 1) = m + 1 + n by omega]
      exact ht

/-- Full counters are the counters after no tick. -/
theorem Envelope.CountsDown.of_full {D A R : Nat} {e : Envelope} (hd : isCount e.delay D) (ha : isCount e.attack A)
    (hr : isCount e.release R) (hfd : e.delayRem = e.delay) (hfa : e.attackRem = e.attack)
    (hfr : e.releaseRem = e.release) : e.CountsDown D A R 0 where
  attack := ha
  release := hr
  delayRem := hfd ▸ hd
  attackRem := hfa ▸ ha.congr (by omega)
  releaseRem := hfr ▸ hr.congr (by omega)

/-- Settles O45: `n` ticks from full, by induction on `n`; the phase is that of the first counter not run down. -/
theorem envelopeTickCount : Obligations.EnvelopeTickCount := by
  intro s inst rd e D A R hinv hrun hcurves hi he hd ha hr hD hA hR hfd hfa hfr n
  have hstart : Ticking inst D A R 0 s e :=
    ⟨hinv, hrun, hcurves, hi, he, .of_full hd ha hr hfd hfa hfr⟩
  obtain ⟨t, f, htimes, ht⟩ := hstart.execTimes rd hD hA hR n
  rw [Nat.zero_add] at ht
  obtain ⟨u, g, hexec, hu, hok, hnoValue⟩ := ht.next rd hD hA hR
  have hphase := ht.counts.phase_eq
  unfold phaseAfter at hphase
  refine ⟨t, u, f, htimes, hexec, ht.stored, hu.running, fun h => ?delay, fun h h' => ?attack, fun h h' => ?release,
    hok, fun h => ⟨?complete, hnoValue h⟩⟩
  case delay => rw [hphase, if_pos h]
  case attack => rw [hphase, if_neg (by omega), if_pos h']
  case release => rw [hphase, if_neg (by omega), if_neg (by omega), if_pos h']
  case complete => rw [hphase, if_neg (by omega), if_neg (by omega), if_neg (by omega)]

end Sys2Proof.Machine
end

section
/-! Family 45_pattern, part 1. The commands of unit PAT on an instance in range with no fault recorded (45_pattern R200 to
R229): each completes or faults in the state its rule names, said once in terms of the pattern's own operations. -/

namespace Sys2Proof.Machine

/-! ## Operands and results -/

theorem State.pointBlock_eq (s : State) (rs1 : Reg) (kind : CurveKind) :
    s.pointBlock rs1 kind = ⟨s.getX rs1, s.getX (rs1 + 1), s.getX (rs1 + 2), kind⟩ := by
  rw [State.pointBlock, State.xr_zero]; rfl

/-- The point of a block is valid exactly if its six comparisons hold (45_pattern R203). -/
theorem State.valid_pointBlock_iff {s : State} {rs1 : Reg} {kind : CurveKind} :
    (s.pointBlock rs1 kind).valid = true ↔
      le Const.zero (s.getX rs1) = true ∧ le (s.getX rs1) Const.one = true ∧
      le Const.zero (s.getX (rs1 + 1)) = true ∧ le (s.getX (rs1 + 1)) Const.one = true ∧
      le Const.negOne (s.getX (rs1 + 2)) = true ∧ le (s.getX (rs1 + 2)) Const.one = true := by
  rw [State.pointBlock_eq, Point.valid_iff]
  simp only [inClosed_iff, and_assoc]

/-- The four registers of a point (45_pattern R228). -/
theorem State.setBlock_point (s : State) (rd : Reg) (q : Point) : s.setBlock rd q.block = { s with
    x := bankSet (bankSet (bankSet (bankSet s.x rd q.x) (rd + 1) q.y) (rd + 2) q.tension) (rd + 3)
      (q.kind.imm.setWidth 64) } := by
  have hreg2 : rd + 1 + 1 = rd + 2 := BitVec.add_assoc rd 1 1
  have hreg3 : rd + 2 + 1 = rd + 3 := BitVec.add_assoc rd 2 1
  rw [← hreg3, ← hreg2]; rfl

/-! ## The commands -/

section
variable {s : State} {inst : Idx} (hrun : s.Running) (hi : inst.toNat < s.cfg.nPat)
include hrun hi

/-- With every check passed, a command whose rule completes on the pattern it selects is that rule's next state. -/
theorem command_withPat {i : Instr} {k : Pattern → CmdOutcome} {rc : ResultCode} {t : State}
    (hk : k (s.getPat inst) = .completes rc t) : command i s (withPat s inst k) = .next { t with rc := rc } := by
  rw [command_of_running hrun, withPat_of_lt hi, hk, settle_completes]

/-- With every check passed, a command whose rule faults on the pattern it selects writes the fault registers. -/
theorem command_withPat_faults {i : Instr} {k : Pattern → CmdOutcome} {c : FaultCause} {info : Word32}
    (hk : k (s.getPat inst) = .faults c info) :
    command i s (withPat s inst k) = .next (s.raise c (encode i) info) := by
  rw [command_of_running hrun, withPat_of_lt hi, hk, settle_faults]

theorem exec_patDflt : exec (.patDflt inst) s = .next { s.setPat inst Pattern.default with rc := .ok } :=
  command_withPat hrun hi rfl

theorem exec_patClr : exec (.patClr inst) s = .next { s.setPat inst Pattern.cleared with rc := .ok } :=
  command_withPat hrun hi rfl

theorem exec_patInv : exec (.patInv inst) s =
    .next { s.setPat inst ((s.getPat inst).inverted s.fp) with rc := .ok } :=
  command_withPat hrun hi rfl

theorem exec_patRev : exec (.patRev inst) s =
    .next { s.setPat inst ((s.getPat inst).reversed s.fp) with rc := .ok } :=
  command_withPat hrun hi rfl

theorem exec_patIns_badPoint {rs1 : Reg} {kind : CurveKind} (h : (s.pointBlock rs1 kind).valid = false) :
    exec (.patIns inst rs1 kind) s = .next { s with rc := .badPoint } :=
  command_withPat hrun hi (if_pos (by rw [h]; rfl))

theorem exec_patIns_full {rs1 : Reg} {kind : CurveKind} (h : (s.pointBlock rs1 kind).valid = true)
    (hfull : (s.getPat inst).count = s.cfg.patMaxPts) :
    exec (.patIns inst rs1 kind) s = .next { s with rc := .full } :=
  command_withPat hrun hi ((if_neg (by simp [h])).trans (if_pos hfull))

theorem exec_patIns {rs1 : Reg} {kind : CurveKind} (h : (s.pointBlock rs1 kind).valid = true)
    (hroom : (s.getPat inst).count ≠ s.cfg.patMaxPts) : exec (.patIns inst rs1 kind) s =
      .next { s.setPat inst ((s.getPat inst).insert (s.pointBlock rs1 kind)) with rc := .ok } :=
  command_withPat hrun hi ((if_neg (by simp [h])).trans (if_neg hroom))

theorem exec_patRm_boundary {rs1 : Reg}
    (h : (s.getX rs1).toNat = 0 ∨ (s.getX rs1).toNat = (s.getPat inst).count - 1) :
    exec (.patRm inst rs1) s = .next { s with rc := .boundary } :=
  command_withPat hrun hi (if_pos h)

theorem exec_patRm_index {rs1 : Reg} (h : (s.getPat inst).count ≤ (s.getX rs1).toNat) :
    exec (.patRm inst rs1) s = .next { s with rc := .index } := by
  have hcount : (s.getPat inst).count = (s.getPat inst).mid.length + 2 := rfl
  exact command_withPat hrun hi ((if_neg (by omega)).trans (if_pos h))

theorem exec_patRm {rs1 : Reg} (hlow : 0 < (s.getX rs1).toNat)
    (hhigh : (s.getX rs1).toNat < (s.getPat inst).count - 1) : exec (.patRm inst rs1) s =
      .next { s.setPat inst ((s.getPat inst).removeAt (s.getX rs1).toNat) with rc := .ok } :=
  command_withPat hrun hi ((if_neg (by omega)).trans (if_neg (by omega)))

theorem exec_patRmpos_none (rd : Reg) {rs1 : Reg}
    (h : (s.getPat inst).mid.findIdx? (Point.at (s.getX rs1) (s.getX (rs1 + 1))) = none) :
    exec (.patRmpos inst rd rs1) s = .next { s.setX rd 0 with rc := .ok } := by
  have hx : (s.getPat inst).mid.findIdx? (Point.at (s.xr rs1 0) (s.xr rs1 1)) = none := by
    rw [State.xr_zero]; exact h
  exact command_withPat hrun hi (by rw [hx])

theorem exec_patRmpos (rd : Reg) {rs1 : Reg} {j : Nat}
    (h : (s.getPat inst).mid.findIdx? (Point.at (s.getX rs1) (s.getX (rs1 + 1))) = some j) :
    exec (.patRmpos inst rd rs1) s =
      .next { (s.setPat inst ((s.getPat inst).removeAt (j + 1))).setX rd 1 with rc := .ok } := by
  have hx : (s.getPat inst).mid.findIdx? (Point.at (s.xr rs1 0) (s.xr rs1 1)) = some j := by
    rw [State.xr_zero]; exact h
  exact command_withPat hrun hi (by rw [hx])

theorem exec_patRmrng (rd rs1 : Reg) : exec (.patRmrng inst rd rs1) s = .next { (s.setPat inst
      { s.getPat inst with mid :=
        (s.getPat inst).mid.filter fun q => !Point.inRange (s.getX rs1) (s.getX (rs1 + 1)) q }).setX rd
      (BitVec.ofNat 64 ((s.getPat inst).mid.countP (Point.inRange (s.getX rs1) (s.getX (rs1 + 1))))) with
    rc := .ok } := by
  rw [← State.xr_zero s rs1]
  exact command_withPat hrun hi rfl

theorem exec_patEval_ok (rd : Reg) {rs1 : Reg} {y : F64}
    (h : patEval s.cfg inst (s.getPat inst) (s.getX rs1) = .ok y) :
    exec (.patEval inst rd rs1) s = .next { s.setX rd y with rc := .ok } :=
  command_withPat hrun hi (by rw [h])

theorem exec_patEval_error (rd : Reg) {rs1 : Reg} {c : FaultCause} {info : Word32}
    (h : patEval s.cfg inst (s.getPat inst) (s.getX rs1) = .error (c, info)) :
    exec (.patEval inst rd rs1) s = .next (s.raise c (encode (.patEval inst rd rs1)) info) :=
  command_withPat_faults hrun hi (by rw [h])

theorem exec_patScommit {q : Pattern} (h : Pattern.ofList s.stg = some q) :
    exec (.patScommit inst) s = .next { s.setPat inst q with rc := .ok } :=
  command_withPat hrun hi (by rw [h])

theorem exec_patScommit_none (h : Pattern.ofList s.stg = none) :
    exec (.patScommit inst) s = .next { s with rc := .badPattern } :=
  command_withPat hrun hi (by rw [h])

theorem exec_patRdpt (rd : Reg) {rs1 : Reg} {q : Point} (h : (s.getPat inst).pts[(s.getX rs1).toNat]? = some q) :
    exec (.patRdpt inst rd rs1) s = .next { s.setBlock rd q.block with rc := .ok } :=
  command_withPat hrun hi (by rw [h])

theorem exec_patRdpt_none (rd : Reg) {rs1 : Reg} (h : (s.getPat inst).pts[(s.getX rs1).toNat]? = none) :
    exec (.patRdpt inst rd rs1) s = .next { s with rc := .index } :=
  command_withPat hrun hi (by rw [h])

theorem exec_patLen (rd : Reg) : exec (.patLen inst rd) s =
    .next { s.setX rd (BitVec.ofNat 64 (s.getPat inst).count) with rc := .ok } :=
  command_withPat hrun hi rfl

end

/-! ## The staging buffer (R225, R226) -/

section
variable {s : State} (hrun : s.Running)
include hrun

theorem exec_patSclr : exec .patSclr s = .next { s with stg := [], rc := .ok } :=
  command_of_running hrun

theorem exec_patSpush_badPoint {rs1 : Reg} {kind : CurveKind} (h : (s.pointBlock rs1 kind).valid = false) :
    exec (.patSpush rs1 kind) s = .next { s with rc := .badPoint } := by
  change execPatSpush rs1 kind s = _
  rw [execPatSpush, command_of_running hrun, if_pos (by rw [h]; rfl), settle_completes]

theorem exec_patSpush_full {rs1 : Reg} {kind : CurveKind} (h : (s.pointBlock rs1 kind).valid = true)
    (hfull : s.stg.length = s.cfg.patMaxPts) :
    exec (.patSpush rs1 kind) s = .next { s with rc := .full } := by
  change execPatSpush rs1 kind s = _
  rw [execPatSpush, command_of_running hrun, if_neg (by simp [h]), if_pos hfull, settle_completes]

theorem exec_patSpush {rs1 : Reg} {kind : CurveKind} (h : (s.pointBlock rs1 kind).valid = true)
    (hroom : s.stg.length ≠ s.cfg.patMaxPts) :
    exec (.patSpush rs1 kind) s = .next { s with stg := s.stg ++ [s.pointBlock rs1 kind], rc := .ok } := by
  change execPatSpush rs1 kind s = _
  rw [execPatSpush, command_of_running hrun, if_neg (by simp [h]), if_neg hroom, settle_completes]

end

/-! ## Insertion (R203, R204) -/

/-- Settles O55: the point's validity, then the capacity, then the insertion on the points. -/
theorem patternInsertion : Obligations.PatternInsertion := by
  intro s inst rs1 kind hrun hi
  dsimp only
  rw [← State.valid_pointBlock_iff (kind := kind), Pattern.length_pts]
  refine ⟨fun h => ?bad, fun h hfull => ?full, fun h hroom => ⟨_, exec_patIns hrun hi h hroom, ?points⟩⟩
  case bad => exact exec_patIns_badPoint hrun hi (Bool.eq_false_iff.2 h)
  case full => exact exec_patIns_full hrun hi h hfull
  case points => rw [Pattern.pts_insert, State.pointBlock_eq]; rfl

/-! ## Removal (R205 to R207) -/

theorem Point.at_iff {x y : F64} {q : Point} : q.at x y = true ↔ feq q.x x = true ∧ feq q.y y = true := by
  rw [Point.at, Bool.and_eq_true]

/-- Settles O56: an index below the last is an interior one; the first match of `PAT.RMPOS` is the first interior point at
the position; `PAT.RMRNG` keeps the interior points outside the range. -/
theorem patternRemoval : Obligations.PatternRemoval := by
  intro s inst rd rs1 hrun hi
  dsimp only
  rw [Pattern.length_pts]
  have hcount : (s.getPat inst).count = (s.getPat inst).mid.length + 2 := rfl
  refine ⟨fun h => exec_patRm_boundary hrun hi h, fun h => exec_patRm_index hrun hi h,
    fun hlow hhigh => ⟨_, exec_patRm hrun hi hlow hhigh, ?removed⟩, fun hno => ?noMatch,
    fun j a ha hx hy hfirst => ?firstMatch, exec_patRmrng hrun hi rd rs1⟩
  case removed =>
    obtain ⟨j, hj⟩ : ∃ j, (s.getX rs1).toNat = j + 1 := ⟨(s.getX rs1).toNat - 1, by omega⟩
    rw [hj]
    exact Pattern.pts_removeAt (by omega)
  case noMatch =>
    refine exec_patRmpos_none hrun hi rd (List.findIdx?_eq_none_iff.2 fun a ha => Bool.eq_false_iff.2 fun hat => ?_)
    exact hno a ha (Point.at_iff.1 hat)
  case firstMatch =>
    obtain ⟨hj, hget⟩ := List.getElem?_eq_some_iff.1 ha
    refine ⟨_, exec_patRmpos hrun hi rd (List.findIdx?_eq_some_iff_getElem.2 ⟨hj, ?_, fun k hk hat => ?_⟩),
      Pattern.pts_removeAt hj⟩
    · rw [hget]; exact Point.at_iff.2 ⟨hx, hy⟩
    · exact hfirst k _ hk (List.getElem?_eq_getElem (hk.trans hj)) (Point.at_iff.1 hat)

/-! ## Construction from a point list (R225 to R227) -/

/-- Settles O58: the staging buffer emptied; a pushed point's validity, then the capacity, then the append. -/
theorem stagingBuffer : Obligations.StagingBuffer := by
  intro s rs1 kind hrun
  dsimp only
  rw [← State.valid_pointBlock_iff (kind := kind)]
  refine ⟨exec_patSclr hrun, fun h => exec_patSpush_badPoint hrun (Bool.eq_false_iff.2 h),
    fun h hfull => exec_patSpush_full hrun h hfull, fun h hroom => ?appended⟩
  case appended => rw [exec_patSpush hrun h hroom, State.pointBlock_eq]

/-- A list is x-sorted exactly if no point lies right of the next one. -/
theorem xSorted_iff_getElem? {l : List Point} : xSorted l = true ↔
    ∀ j a b, l[j]? = some a → l[j + 1]? = some b → le a.x b.x = true := by
  induction l with
  | nil => simp [xSorted]
  | cons p rest ih =>
    cases rest with
    | nil => simp [xSorted]
    | cons q rest =>
      rw [xSorted, Bool.and_eq_true, ih]
      refine ⟨fun ⟨hpq, hrest⟩ j a b ha hb => ?_, fun h => ⟨h 0 p q rfl rfl, fun j => h (j + 1)⟩⟩
      cases j with
      | zero => cases ha; cases hb; exact hpq
      | succ j => exact hrest j a b ha hb

/-- A list builds a pattern exactly if it has two points or more, from x = 0 to x = 1, and no x falls (R227). -/
theorem Pattern.isSome_ofList_iff {l : List Point} : (Pattern.ofList l).isSome = true ↔ 2 ≤ l.length ∧
    (∃ a, l[0]? = some a ∧ feq a.x Const.zero = true) ∧
    (∃ a, l[l.length - 1]? = some a ∧ feq a.x Const.one = true) ∧
    ∀ j a b, l[j]? = some a → l[j + 1]? = some b → le a.x b.x = true := by
  rw [← xSorted_iff_getElem?, ← List.getLast?_eq_getElem?]
  match l with
  | [] => simp [Pattern.ofList]
  | [_] => simp [Pattern.ofList]
  | p :: q :: rest =>
    simp [Pattern.ofList, List.getLast?_cons, and_assoc]

/-- Settles O59: the list builds a pattern exactly if it is good, and the pattern has its points. -/
theorem patternCommit : Obligations.PatternCommit := by
  intro s inst hrun hi
  dsimp only
  rw [← Pattern.isSome_ofList_iff]
  refine ⟨fun hgood => ?good, fun hbad => ?bad⟩
  case good =>
    obtain ⟨q, hq⟩ := Option.isSome_iff_exists.1 hgood
    obtain ⟨hpts, -⟩ := Pattern.ofList_eq_some hq
    exact ⟨q, exec_patScommit hrun hi hq, hpts⟩
  case bad => exact exec_patScommit_none hrun hi (Option.not_isSome_iff_eq_none.1 hbad)

/-! ## State read (R228, R229) -/

/-- Settles O57: a point's four words in consecutive registers, `INDEX` from the count on, and the count. -/
theorem patternRead : Obligations.PatternRead := by
  intro s inst rd rs1 hrun hi
  refine ⟨fun a ha => ?point, fun hlen => ?index, ?length⟩
  case point =>
    rw [exec_patRdpt hrun hi rd ha, State.setBlock_point]
    cases a.kind <;> rfl
  case index => exact exec_patRdpt_none hrun hi rd (List.getElem?_eq_none hlen)
  case length => rw [exec_patLen hrun hi rd, Pattern.length_pts]; rfl

end Sys2Proof.Machine
end

section
/-! Family 45_pattern, part 2. The whole-pattern commands (45_pattern R200, R201, R208, R209): a reversed pattern point by
point, and twice reversed. -/

namespace Sys2Proof.Machine

/-! ## The points of a reversed pattern (R209) -/

/-- The point of `n` from which point `j` of a reversed pattern takes tension and kind: `n-2-j`, and the last its own. -/
def shapeIndex (n j : Nat) : Nat := if j = n - 1 then n - 1 else n - 2 - j

theorem shapeIndex_lt {n j : Nat} (h : j < n) : shapeIndex n j < n := by
  unfold shapeIndex; split <;> omega

/-- Tension and kind return to their place. -/
theorem shapeIndex_shapeIndex {n j : Nat} (h : j < n) : shapeIndex n (shapeIndex n j) = j := by
  unfold shapeIndex; split <;> split <;> omega

section
variable {p : Pattern} (A : Arith)

theorem Pattern.shapes_eq : p.shapes = p.pts.dropLast.reverse ++ [p.last] := by
  have hdrop : p.pts.dropLast.reverse = p.mid.reverse ++ [p.first] := by
    rw [Pattern.pts, ← List.cons_append, List.dropLast_concat, List.reverse_cons]
  rw [hdrop, Pattern.shapes]
  rcases List.eq_nil_or_concat p.mid with h | ⟨init, m, h⟩ <;> simp [h]

theorem Pattern.getLast?_pts : p.pts.getLast? = some p.last := List.getLast?_concat (l := p.first :: p.mid)

/-- The shapes fall from `n-2` to 0, and end with the last point. -/
theorem Pattern.getElem?_shapes {j : Nat} (hj : j < p.pts.length) :
    p.shapes[j]? = p.pts[shapeIndex p.pts.length j]? := by
  have hlen : p.pts.dropLast.length = p.pts.length - 1 := List.length_dropLast
  rw [Pattern.shapes_eq, shapeIndex]
  split
  · next hlast =>
    rw [List.getElem?_append_right (by rw [List.length_reverse, hlen, hlast]), List.length_reverse, hlen, hlast,
      Nat.sub_self, ← List.getLast?_eq_getElem?, Pattern.getLast?_pts]
    rfl
  · next hbefore =>
    have hj' : j < p.pts.dropLast.length := by omega
    rw [List.getElem?_append_left (by rwa [List.length_reverse]), List.getElem?_reverse hj', List.getElem?_dropLast,
      if_pos (by omega), hlen]
    rfl

/-- Point `j` of a reversed pattern is the mirror of `n-1-j` with the tension and kind of `shapeIndex n j`. -/
theorem Pattern.getElem?_reversed {a b : Point} {j : Nat} (hj : j < p.pts.length)
    (ha : p.pts[p.pts.length - 1 - j]? = some a) (hb : p.pts[shapeIndex p.pts.length j]? = some b) :
    (p.reversed A).pts[j]? = some (mirrored A a b) := by
  rw [Pattern.pts_reversed, List.getElem?_zipWith, List.getElem?_reverse hj, ha, Pattern.getElem?_shapes hj, hb]

theorem Pattern.length_pts_reversed : (p.reversed A).pts.length = p.pts.length := by
  simp [Pattern.count, Pattern.reversed]

/-- Each point returns to its place with `1 -. (1 -. x)`. -/
theorem Pattern.pts_reversed_reversed : ((p.reversed A).reversed A).pts =
    p.pts.map fun a => { a with x := A.sub Const.one (A.sub Const.one a.x) } := by
  have hlen := Pattern.length_pts_reversed (p := p) A
  refine List.ext_getElem? fun j => ?_
  rcases Nat.lt_or_ge j p.pts.length with hj | hj
  · have point {i : Nat} (hi : i < p.pts.length) : ∃ a, p.pts[i]? = some a := ⟨_, List.getElem?_eq_getElem hi⟩
    obtain ⟨a, ha⟩ := point hj
    have hback : p.pts.length - 1 - (p.pts.length - 1 - j) = j := by omega
    obtain ⟨shape, hshape⟩ := point (shapeIndex_lt (j := p.pts.length - 1 - j) (by omega))
    obtain ⟨src, hsrc⟩ := point (i := p.pts.length - 1 - shapeIndex p.pts.length j) (by omega)
    have hposition := Pattern.getElem?_reversed A (j := p.pts.length - 1 - j) (by omega) (hback.symm ▸ ha) hshape
    have hform := Pattern.getElem?_reversed A (shapeIndex_lt hj) hsrc ((shapeIndex_shapeIndex hj).symm ▸ ha)
    rw [← hlen] at hposition hform
    rw [Pattern.getElem?_reversed A (hlen.symm ▸ hj) hposition hform, List.getElem?_map, ha]
    simp [mirrored]
  · rw [List.getElem?_eq_none (by rw [Pattern.length_pts_reversed, hlen]; exact hj),
      List.getElem?_eq_none (by rw [List.length_map]; exact hj)]

end

/-! ## The commands -/

/-- Settles O49: the constant patterns, the inverted points, and the reversed points by their indices. -/
theorem wholePatternCommands : Obligations.WholePatternCommands := by
  refine ⟨fun s inst hrun hi => ⟨exec_patDflt hrun hi, exec_patClr hrun hi⟩, fun s inst hrun hi =>
    ⟨⟨_, exec_patInv hrun hi, Pattern.pts_inverted _⟩,
      ⟨_, exec_patRev hrun hi, Pattern.length_pts_reversed _, fun j hj => ?reversed⟩⟩⟩
  case reversed =>
    have ha := List.getElem?_eq_getElem (show (s.getPat inst).pts.length - 1 - j < (s.getPat inst).pts.length by omega)
    have hb := List.getElem?_eq_getElem (shapeIndex_lt hj)
    refine ⟨_, _, ha, fun hlt => ?_, fun hlast => ?_, Pattern.getElem?_reversed s.fp hj ha hb⟩
    · rw [← hb, shapeIndex, if_neg hlt.ne]
    · rw [← hb, shapeIndex, if_pos hlast]

/-- What a completed `PAT.REV` leaves of the machine it ran on. -/
theorem patRev_next {s t : State} {inst : Idx} (hrun : s.Running) (hi : inst.toNat < s.cfg.nPat)
    (h : exec (.patRev inst) s = .next t) :
    t.Running ∧ t.cfg = s.cfg ∧ t.getPat inst = (s.getPat inst).reversed s.fp := by
  obtain rfl := Host.Outcome.next.inj ((exec_patRev hrun hi).symm.trans h)
  exact ⟨hrun, rfl, bankGet_bankSet_same ..⟩

/-- Settles O50: the second reversal reads the pattern that the first one stored. -/
theorem reverseTwice : Obligations.ReverseTwice := by
  intro s t u inst hrun hi ht hu
  obtain ⟨htrun, hcfg, htpat⟩ := patRev_next hrun hi ht
  obtain ⟨-, -, hupat⟩ := patRev_next htrun (hcfg ▸ hi) hu
  have hfp : t.fp = s.fp := congrArg fpOf hcfg
  rw [hupat, htpat, hfp]
  exact Pattern.pts_reversed_reversed s.fp

end Sys2Proof.Machine
end

section
/-! Family 45_pattern, part 3. Evaluation (45_pattern R210 to R216): the least bracketing segment, the unit interval of a
well-formed pattern, and the default pattern. -/

namespace Sys2Proof.Machine

/-! ## The selected segment (R210, R214) -/

/-- A segment that brackets the position and has no such segment before it is the selected one. -/
theorem bracket_of_least {x : F64} {l : List Point} {j : Nat} {a b : Point} (ha : l[j]? = some a)
    (hb : l[j + 1]? = some b) (hx : le a.x x = true ∧ le x b.x = true)
    (hleast : ∀ k c d, k < j → l[k]? = some c → l[k + 1]? = some d → ¬ (le c.x x = true ∧ le x d.x = true)) :
    bracket x 0 l = some (j, a, b) := by
  cases h : bracket x 0 l with
  | none => exact absurd hx (bracket_eq_none h j a b ha hb)
  | some r =>
    obtain ⟨i, c, d⟩ := r
    obtain ⟨-, hc, hd, hcx, hxd, hmin⟩ := bracket_eq_some h
    rw [Nat.sub_zero] at hc hd hmin
    rcases Nat.lt_trichotomy i j with hij | rfl | hij
    · exact absurd ⟨hcx, hxd⟩ (hleast i c d hij hc hd)
    · obtain rfl := Option.some.inj (ha.symm.trans hc)
      obtain rfl := Option.some.inj (hb.symm.trans hd)
      rfl
    · exact absurd hx (hmin j a b hij ha hb)

/-- Without a bracketing segment none is selected. -/
theorem bracket_of_none {x : F64} {l : List Point}
    (h : ∀ j a b, l[j]? = some a → l[j + 1]? = some b → ¬ (le a.x x = true ∧ le x b.x = true)) :
    bracket x 0 l = none := by
  cases hr : bracket x 0 l with
  | none => rfl
  | some r =>
    obtain ⟨-, ha, hb, hax, hxb, -⟩ := bracket_eq_some hr
    exact absurd ⟨hax, hxb⟩ (h _ _ _ ha hb)

theorem kindWord_toNat (k : CurveKind) : (kindWord k).toNat = k.imm.toNat := by cases k <;> rfl

theorem CurveKind.imm_lt (k : CurveKind) : k.imm.toNat < 2 ^ 4 := by cases k <;> decide

/-- `FAULTINFO` of `NO_BRACKET` as a number (10_state R39). -/
theorem noBracketInfo_eq (k : Idx) : noBracketInfo k = BitVec.ofNat 32 (k.toNat * 16) := by
  apply BitVec.eq_of_toNat_eq
  have hk := k.isLt
  rw [noBracketInfo, BitVec.toNat_shiftLeft, BitVec.toNat_setWidth, Nat.shiftLeft_eq, BitVec.toNat_ofNat]
  omega

/-- `FAULTINFO` of `UNIMPL_CURVE` as a number (10_state R39): its three fields do not overlap. -/
theorem unimplInfo_eq (j : Nat) (k : Idx) (kind : CurveKind) : unimplInfo j k kind =
    BitVec.ofNat 32 (j % 65536 * 65536 + k.toNat * 16 + kind.imm.toNat) := by
  apply BitVec.eq_of_toNat_eq
  have hk := k.isLt
  have hkind := CurveKind.imm_lt kind
  have hlow : (k.toNat <<< 4 ||| kind.imm.toNat) = k.toNat * 16 + kind.imm.toNat := by
    rw [← Nat.shiftLeft_add_eq_or_of_lt hkind, Nat.shiftLeft_eq]
  have hall : ((j % 65536) <<< 16 ||| (k.toNat * 16 + kind.imm.toNat)) =
      j % 65536 * 65536 + (k.toNat * 16 + kind.imm.toNat) := by
    rw [← Nat.shiftLeft_add_eq_or_of_lt (by omega), Nat.shiftLeft_eq]
  have hj : BitVec.toNat (BitVec.ofNat 32 (j % 65536) <<< 16) = (j % 65536) <<< 16 := by
    rw [BitVec.toNat_shiftLeft, BitVec.toNat_ofNat, Nat.shiftLeft_eq, Nat.shiftLeft_eq]
    omega
  have hinst : BitVec.toNat (k.setWidth 32 <<< 4) = k.toNat <<< 4 := by
    rw [BitVec.toNat_shiftLeft, BitVec.toNat_setWidth, Nat.shiftLeft_eq, Nat.shiftLeft_eq]
    omega
  rw [unimplInfo, BitVec.toNat_or, BitVec.toNat_or, hj, hinst, kindWord_toNat, Nat.or_assoc, hlow, hall,
    BitVec.toNat_ofNat]
  omega

/-- An unimplemented kind raises `UNIMPL_CURVE` (R214). -/
theorem segmentY_unimplemented (c : Cfg) (k : Idx) (j : Nat) {a : Point} (b : Point) (x : F64)
    (h : CurveKind.implemented a.kind = false) :
    segmentY c k j a b x = .error (.unimplCurve, unimplInfo j k a.kind) := by
  unfold segmentY
  cases hk : a.kind
  case hold | curve | sCurve =>
    rw [hk] at h
    cases h
  all_goals rfl

/-- Settles O51: the least bracketing segment is the selected one, and its kind gives the value or the fault. -/
theorem patternEvaluation : Obligations.PatternEvaluation := by
  intro s inst rd rs1 hrun hi
  refine ⟨fun j a b ⟨ha, hb, hax, hxb⟩ hleast => ?segment, fun hno => ?noBracket⟩
  case segment =>
    have heval : patEval s.cfg inst (s.getPat inst) (s.getX rs1) = segmentY s.cfg inst j a b (s.getX rs1) := by
      rw [patEval, bracket_of_least ha hb ⟨hax, hxb⟩ fun k c d hk hc hd hx => hleast k c d hk ⟨hc, hd, hx⟩]
    refine ⟨fun hkind => ?hold, fun hkind => ?curve, fun hkind => ?sCurve, fun hkind => ?unimplemented⟩
    case unimplemented =>
      rw [segmentY_unimplemented _ _ _ _ _ hkind] at heval
      rw [exec_patEval_error hrun hi rd heval, unimplInfo_eq]
      rfl
    all_goals
      rw [segmentY, hkind] at heval
      exact exec_patEval_ok hrun hi rd heval
  case noBracket =>
    have heval : patEval s.cfg inst (s.getPat inst) (s.getX rs1) = .error (.noBracket, noBracketInfo inst) := by
      rw [patEval, bracket_of_none fun j a b ha hb hx => hno j a b ⟨ha, hb, hx⟩]
    rw [exec_patEval_error hrun hi rd heval, noBracketInfo_eq]
    rfl

/-! ## The unit interval (R210, 10_state R53) -/

/-- A segment of a well-formed pattern brackets positions of the unit interval only. -/
theorem Pattern.inClosed_of_bracket {c : Cfg} {p : Pattern} (hp : p.wf c = true) {x : F64} {j : Nat} {a b : Point}
    (h : bracket x 0 p.pts = some (j, a, b)) : inClosed Const.zero x Const.one = true := by
  obtain ⟨-, -, -, -, hvalid⟩ := Pattern.wf_iff.1 hp
  obtain ⟨-, ha, hb, hax, hxb, -⟩ := bracket_eq_some h
  obtain ⟨hzero, -⟩ := inClosed_iff.1 (Point.valid_iff.1 (hvalid a (List.mem_of_getElem? ha))).1
  obtain ⟨-, hone⟩ := inClosed_iff.1 (Point.valid_iff.1 (hvalid b (List.mem_of_getElem? hb))).1
  exact inClosed_iff.2 ⟨f64_le_trans hzero hax, f64_le_trans hxb hone⟩

/-- A segment's formula gives a value, or the fault of an unimplemented kind. -/
theorem segmentY_cases (c : Cfg) (k : Idx) (j : Nat) (a b : Point) (x : F64) :
    (∃ y, segmentY c k j a b x = .ok y) ∨ ∃ info, segmentY c k j a b x = .error (.unimplCurve, info) := by
  cases h : CurveKind.implemented a.kind
  · exact .inr ⟨_, segmentY_unimplemented c k j b x h⟩
  · exact .inl (segmentY_ok c k j b x h)

/-- Without a fault the invariant records no cause (60_exceptions R256). -/
theorem State.cause_of_running {s : State} (hs : s.Inv) (hrun : s.Running) : s.cause = none := by
  obtain ⟨-, hfault, -⟩ := State.inv_iff.1 hs
  simp only [faultRegistersWf, Bool.and_eq_true, beq_iff_eq] at hfault
  rw [hrun] at hfault
  exact Option.not_isSome_iff_eq_none.1 (Bool.eq_false_iff.1 hfault.1.symm)

/-- Settles O53: a well-formed pattern brackets exactly the unit interval, and a bracketed position ends in a value or
`UNIMPL_CURVE`. -/
theorem unitIntervalIsBracketed : Obligations.UnitIntervalIsBracketed := by
  intro s inst rd rs1 hs hrun hi
  obtain ⟨-, -, hpat, -⟩ := State.inv_iff.1 hs
  rw [← inClosed_iff]
  rcases patEval_cases s.cfg inst (s.getPat inst) (s.getX rs1) with ⟨hnone, heval⟩ | ⟨j, a, b, hsome, heval⟩
  · refine iff_of_true ⟨_, exec_patEval_error hrun hi rd heval, rfl⟩ fun hx => ?_
    exact Pattern.bracket_ne_none (hpat inst) hx hnone
  · refine iff_of_false (fun ⟨t, ht, hcause⟩ => ?_) (not_not.2 (Pattern.inClosed_of_bracket (hpat inst) hsome))
    rcases segmentY_cases s.cfg inst j a b (s.getX rs1) with ⟨y, hy⟩ | ⟨info, hinfo⟩
    · obtain rfl := Host.Outcome.next.inj ((exec_patEval_ok hrun hi rd (heval.trans hy)).symm.trans ht)
      cases (State.cause_of_running hs hrun).symm.trans hcause
    · obtain rfl := Host.Outcome.next.inj ((exec_patEval_error hrun hi rd (heval.trans hinfo)).symm.trans ht)
      cases hcause

/-! ## The default pattern (R200, R215, R216) -/

/-- At tension 0 the exponent of `PWR_FIX` is `pow(1.1, 0)`, 1.0. -/
theorem curvePwr_fix_zero {c : Cfg} (h : c.curvePwr = .fix) : curvePwr c Const.zero = Const.one := by
  have hzero : isZero (Machine.abs ((fpOf c).mul Const.zero Const.tensionScale)) = true := by
    rw [isZero_iff, mag_abs, ← isZero_iff]
    exact isZero_mul _ (by decide) (by decide) (.inl (by decide))
  simp only [curvePwr, h]
  exact powF_of_isZero _ _ hzero

/-- Two zeros add up to -0.0 if both are -0.0, and to +0.0 otherwise. -/
theorem sumOf_of_isZero (op : NanOp) {a b : F64} (ha : isZero a = true) (hb : isZero b = true) :
    sumOf op a b = ofSignMag (a.msb && b.msb) 0 := by
  have value_of_isZero {v : F64} (h : isZero v = true) : value v = 0 := by simp [value, isZero_iff.1 h, units_zero]
  have notInf {v : F64} (h : isZero v = true) : ¬ isInf v = true :=
    Bool.eq_false_iff.1 (not_isInf_of_isFinite (isFinite_of_isZero h))
  rw [sumOf, if_neg (notInf ha), if_neg (notInf hb), value_of_isZero ha, value_of_isZero hb]
  rfl

section
variable {A : Arith} (hA : A.ftz = false) {x : F64}
include hA

/-- Without flushing, a finite value less +0.0 is that value, to the bit. -/
theorem sub_zero_of_isFinite (h : isFinite x = true) : A.sub x Const.zero = x := by
  cases hz : isZero x
  · exact eq_of_orderKey_eq hz (orderKey_sub_of_isZero hA h (by decide))
  · have hsum : sumOf .sub x (neg Const.zero) = ofSignMag x.msb (mag x) := by
      rw [sumOf_of_isZero .sub hz (by decide), isZero_iff.1 hz, show (neg Const.zero).msb = true by decide, Bool.and_true]
    rw [(sub_finite A h (by decide)).2.1, flush_false hA, flush_false hA, flush_false hA, hsum, ofSignMag_msb_mag]

/-- Without flushing, a zero of either sign plus +0.0 is +0.0. -/
theorem add_zero_of_isZero (h : isZero x = true) : A.add x Const.zero = Const.zero := by
  have hsum : sumOf .add x Const.zero = Const.zero := by
    rw [sumOf_of_isZero .add h (by decide), show Const.zero.msb = false by decide, Bool.and_false]
    rfl
  rw [(add_finite A (isFinite_of_isZero h) (by decide)).2.1, flush_false hA, flush_false hA, flush_false hA, hsum]

end

/-- A zero is -0.0 or +0.0. -/
theorem eq_zero_of_isZero {x : F64} (h : isZero x = true) (hsign : x ≠ 0x8000000000000000#64) : x = Const.zero := by
  have hmag := isZero_iff.1 h
  cases hs : x.msb
  · exact f64_ext (hs.trans (by decide)) (hmag.trans (by decide))
  · exact absurd (f64_ext (hs.trans (by decide)) (hmag.trans (by decide))) hsign

/-- Under `PWR_FIX` and without flushing, the segment of the default pattern gives `x +. 0.0`. -/
theorem curveY_default {c : Cfg} (hpwr : c.curvePwr = .fix) (hftz : c.ftz = false) {x : F64} (hx : isFinite x = true) :
    curveY c Pattern.default.first Pattern.default.last x = (fpOf c).add x Const.zero := by
  have hA : (fpOf c).ftz = false := hftz
  have hone : (fpOf c).sub Const.one Const.zero = Const.one := sub_zero_of_isFinite hA (by decide)
  have hne : ¬ feq Const.zero Const.one = true := by decide
  have hrise : ge Const.zero Const.zero = true := by decide
  simp only [curveY, Pattern.default, if_neg hne, if_pos hrise, curvePwr_fix_zero hpwr, sub_zero_of_isFinite hA hx, hone,
    div_one_of_isFinite hA hx, powerRise, powF_one_right _ (not_isNaN_of_isFinite hx), mul_one_of_isFinite hA hx]

/-- Settles O54: `x +. 0.0` is IEEE-equal to `x`, and differs from it in the sign of -0.0 only. -/
theorem defaultPatternIsTheIdentity : Obligations.DefaultPatternIsTheIdentity := by
  intro s inst rd rs1 hrun hi hpat hpwr hftz hlow hhigh
  have hfin : isFinite (s.getX rs1) = true := isFinite_of_inClosed (inClosed_iff.2 ⟨hlow, hhigh⟩)
  have hA : (fpOf s.cfg).ftz = false := hftz
  have hbracket : bracket (s.getX rs1) 0 Pattern.default.pts = some (0, Pattern.default.first, Pattern.default.last) :=
    bracket_of_least rfl rfl ⟨hlow, hhigh⟩ fun k _ _ hk => absurd hk (Nat.not_lt_zero k)
  have heval : patEval s.cfg inst (s.getPat inst) (s.getX rs1) = .ok ((fpOf s.cfg).add (s.getX rs1) Const.zero) := by
    rw [hpat, patEval, hbracket, ← curveY_default hpwr hftz hfin]
    rfl
  have hkey := orderKey_add_of_isZero hA hfin (b := Const.zero) (by decide)
  refine ⟨_, exec_patEval_ok hrun hi rd heval, ?equal, fun hsign => ?bits⟩
  case equal => exact feq_iff.2 ⟨(add_finite _ hfin (by decide)).1, not_isNaN_of_isFinite hfin, hkey⟩
  case bits =>
    cases hz : isZero (s.getX rs1)
    · exact eq_of_orderKey_eq hz hkey
    · rw [eq_zero_of_isZero hz hsign]
      exact add_zero_of_isZero hA (by decide)

end Sys2Proof.Machine
end

section
/-! Family 46_system. The two system commands: `NOP` (46_system R240) goes through the fault check of every command, `SRST`
(R241) goes past it. -/

namespace Sys2Proof.Machine

/-- `SRST` completes in the reset state, whether or not a fault is recorded: the result code it writes is the one the
reset state has. -/
theorem exec_srst (s : State) : exec .srst s = .next s.afterReset := settle_completes (encode .srst) s s.afterReset .ok

/-- Settles O18: the step serves the write of the word of `SRST`, which keeps the host's side of the port as the step left
it. -/
theorem srstGivesTheResetState : Obligations.SrstGivesTheResetState := by
  refine ⟨exec_srst, fun s rest hin hhost => ?_⟩
  obtain ⟨runDecoded, -⟩ := stepRunsTheDecodedCommand
  obtain ⟨hdecode, -⟩ := sampleWordsDecode
  calc step s = exec .srst { s with host := rest, port := .written } := runDecoded s _ _ rest hin hhost hdecode
    _ = .next { s with host := rest, port := .written : State }.afterReset := exec_srst _
    _ = .next { State.reset with cfg := s.cfg, inReset := false, host := rest, port := .written } := by
      rw [State.afterReset, hin]

theorem exec_nop_of_running {s : State} (hrun : s.Running) : exec .nop s = .next { s with rc := .ok } :=
  (command_of_running hrun).trans (settle_completes (encode .nop) s s .ok)

/-- Settles O25: `NOP` completes in the state it finds, and the fault check refuses it like any other command. -/
theorem nopWritesOnlyRc : Obligations.NopWritesOnlyRc :=
  fun _ => ⟨exec_nop_of_running, command_of_faulted⟩

end Sys2Proof.Machine
end

section
/-! Family 60_exceptions, part 1. The fault state: no step stops (60_exceptions R255, R271), a recorded fault refuses
every command but `SRST` (R257) and stays (R256), and a fault writes the four fault registers only (R258). -/

namespace Sys2Proof.Machine

/-! ## A write to `CMD` -/

theorem encode_srst : encode .srst = 0x01000000#32 := by decide

/-- A write to `CMD` runs the command whose word it is, or is the write of an illegal word (10_state R35). -/
theorem writeCmd_cases (w : Word32) (s : State) :
    (∃ i, encode i = w ∧ writeCmd w s = exec i s) ∨ writeCmd w s = illegalWord w s := by
  cases hdecode : decode w with
  | ok i =>
    obtain ⟨-, hword⟩ := encodeOfDecodeIsIdentity w i hdecode
    exact .inl ⟨i, hword, writeCmd_of_decode hdecode s⟩
  | error e => exact .inr (by rw [writeCmd, hdecode])

/-! ## No step stops (R255, R271) -/

theorem exec_next (i : Instr) (s : State) : ∃ t, exec i s = .next t := by
  by_cases hi : i = .srst
  · exact ⟨_, hi ▸ exec_srst s⟩
  · obtain ⟨o, hexec, -⟩ := exec_effect s hi
    exact hexec ▸ command_next i s o

theorem writeCmd_next (w : Word32) (s : State) : ∃ t, writeCmd w s = .next t := by
  rcases writeCmd_cases w s with ⟨i, -, h⟩ | h <;> rw [h]
  · exact exec_next i s
  · exact settle_next _ _ _

theorem access_next (tx : HostTxn) (s : State) : ∃ t, access tx s = .next t := by
  cases tx with
  | read => exact ⟨_, rfl⟩
  | write off w =>
    rw [access]
    split
    · split
      · exact writeCmd_next w _
      · exact ⟨_, rfl⟩
    · exact ⟨_, rfl⟩
  | oddWidth => exact ⟨_, rfl⟩
  | resetLine => exact ⟨_, rfl⟩

/-- A transaction is served unless the reset input is asserted (70_reset R280). -/
theorem serve_transaction {tx : HostTxn} (s : State) (htx : ∀ b, tx ≠ .resetLine b) :
    serve tx s = if s.inReset then .next (s.reply .silent) else access tx s := by
  cases tx with
  | resetLine b => exact absurd rfl (htx b)
  | read => rfl
  | write => rfl
  | oddWidth => rfl

theorem serve_next (tx : HostTxn) (s : State) : ∃ t, serve tx s = .next t := by
  by_cases hline : ∃ b, tx = .resetLine b
  · obtain ⟨b, rfl⟩ := hline
    exact ⟨_, rfl⟩
  · rw [serve_transaction s (not_exists.1 hline)]
    split
    · exact ⟨_, rfl⟩
    · exact access_next tx s

/-- Settles O7: an idle machine steps to itself, and serving a transaction answers a next state. -/
theorem everyStepAnswersNext : Obligations.EveryStepAnswersNext := by
  intro s
  cases hhost : s.host with
  | nil => exact ⟨s, step_idle hhost⟩
  | cons tx rest => exact step_serve hhost ▸ serve_next tx _

/-! ## A recorded fault refuses commands (R257) -/

section faulted
variable {s : State} (hf : s.faulted = true)
include hf

theorem exec_of_faulted {i : Instr} (hi : i ≠ .srst) : exec i s = .next s := by
  obtain ⟨o, hexec, -⟩ := exec_effect s hi
  exact hexec.trans (command_of_faulted hf)

theorem illegalWord_of_faulted (w : Word32) : illegalWord w s = .next s := by
  rw [illegalWord, if_pos hf, settle_refused]

theorem writeCmd_of_faulted {w : Word32} (hw : w ≠ 0x01000000#32) : writeCmd w s = .next s := by
  rcases writeCmd_cases w s with ⟨i, hword, h⟩ | h <;> rw [h]
  · refine exec_of_faulted hf ?_
    rintro rfl
    exact hw (hword.symm.trans encode_srst)
  · exact illegalWord_of_faulted hf w

end faulted

/-- Settles O8: the write to `CMD` is refused, and the data registers are read and written as in any state. -/
theorem faultedMachineRefusesCommands : Obligations.FaultedMachineRefusesCommands := by
  intro s rest hin hf
  refine ⟨fun w hw hhost => ?_, fun _ => step_read_half (high := false) hin, fun _ => step_read_half (high := true) hin,
    fun _ _ => step_write_half (high := false) hin, fun _ _ => step_write_half (high := true) hin⟩
  rw [step_serve hhost, serve_write_cmd (s := { s with host := rest }) hin, writeCmd_of_faulted ?_ hw]
  · rfl
  · exact hf

/-! ## A recorded fault stays (R256) -/

/-- `t` records the fault that `s` records, or none if `s` records none: the four fault registers are the same. -/
structure SameFault (s t : State) : Prop where
  faulted : t.faulted = s.faulted
  cause : t.cause = s.cause
  faultCmd : t.faultCmd = s.faultCmd
  faultInfo : t.faultInfo = s.faultInfo

theorem writeWord_sameFault (s : State) (off : Nat) (w : Word32) : SameFault s (writeWord s off w) := by
  rw [writeWord]
  split <;> exact ⟨rfl, rfl, rfl, rfl⟩

/-- Of the transactions the write of `SRST` alone can end a fault. -/
theorem access_sameFault {tx : HostTxn} {s t : State} (hf : s.faulted = true) (htx : tx ≠ .write 0 0x01000000#32)
    (h : access tx s = .next t) : SameFault s t := by
  cases tx with
  | read =>
    obtain rfl := Host.Outcome.next.inj h
    exact ⟨rfl, rfl, rfl, rfl⟩
  | write off w =>
    rw [access] at h
    split at h
    · split at h
      · next hcmd =>
        have hw : w ≠ 0x01000000#32 := fun hw => htx (by rw [hcmd, hw])
        rw [writeCmd_of_faulted (s := s.reply .written) hf hw] at h
        obtain rfl := Host.Outcome.next.inj h
        exact ⟨rfl, rfl, rfl, rfl⟩
      · obtain rfl := Host.Outcome.next.inj h
        obtain ⟨hfaulted, hcause, hcmd, hinfo⟩ := writeWord_sameFault s off w
        exact ⟨hfaulted, hcause, hcmd, hinfo⟩
    · obtain rfl := Host.Outcome.next.inj h
      exact ⟨rfl, rfl, rfl, rfl⟩
  | oddWidth =>
    obtain rfl := Host.Outcome.next.inj h
    exact ⟨rfl, rfl, rfl, rfl⟩
  | resetLine =>
    obtain rfl := Host.Outcome.next.inj h
    exact ⟨rfl, rfl, rfl, rfl⟩

/-- A release of the reset input that was not asserted resets nothing. -/
theorem driveReset_false_of_released {s : State} (hin : s.inReset = false) : driveReset false s = s.reply .silent := by
  simp [driveReset, hin]

theorem serve_sameFault {tx : HostTxn} {s t : State} (hf : s.faulted = true) (hin : s.inReset = false)
    (hsrst : tx ≠ .write 0 0x01000000#32) (hreset : tx ≠ .resetLine true) (h : serve tx s = .next t) :
    SameFault s t := by
  by_cases hline : ∃ b, tx = .resetLine b
  · obtain ⟨_ | _, rfl⟩ := hline
    · rw [serve, driveReset_false_of_released hin] at h
      obtain rfl := Host.Outcome.next.inj h
      exact ⟨rfl, rfl, rfl, rfl⟩
    · exact absurd rfl hreset
  · rw [serve_transaction s (not_exists.1 hline), if_neg (Bool.eq_false_iff.1 hin)] at h
    exact access_sameFault hf hsrst h

/-- Settles O11: an idle step changes nothing, and no transaction but the two that are excluded ends a fault. -/
theorem faultIsSticky : Obligations.FaultIsSticky := by
  intro s t hf hin h hsrst hreset
  cases hhost : s.host with
  | nil =>
    rw [step_idle hhost] at h
    obtain rfl := Host.Outcome.next.inj h
    exact ⟨hf, rfl, rfl, rfl⟩
  | cons tx rest =>
    rw [step_serve hhost] at h
    obtain ⟨hfaulted, hcause, hcmd, hinfo⟩ := serve_sameFault (s := { s with host := rest }) hf hin
      (fun e => hsrst rest (by rw [hhost, e])) (fun e => hreset rest (by rw [hhost, e])) h
    exact ⟨hfaulted.trans hf, hcause, hcmd, hinfo⟩

/-! ## Faults are precise (R258) -/

section
variable {i : Instr} {s t : State}

theorem RegWrite.faulted_eq (w : RegWrite i s t) : t.faulted = s.faulted := by
  obtain ⟨x, rfl⟩ := w.frame
  rfl

/-- A command that completes leaves `F` as it is. -/
theorem Effect.faulted_eq {rc : ResultCode} (he : Effect i s (.completes rc t)) : t.faulted = s.faulted := by
  cases he with
  | code => rfl
  | regs w => exact w.faulted_eq
  | bq _ _ w => exact w.faulted_eq
  | svf _ _ w => exact w.faulted_eq
  | spl _ _ w => exact w.faulted_eq
  | env _ _ w => exact w.faulted_eq
  | pat _ _ w => exact w.faulted_eq
  | staging => rfl

/-- If `F` becomes 1, the command has raised a fault and done nothing else. -/
theorem exec_raises (hrun : s.Running) (h : exec i s = .next t) (ht : t.faulted = true) :
    ∃ c info, t = s.raise c (encode i) info := by
  by_cases hi : i = .srst
  · subst hi
    obtain rfl := Host.Outcome.next.inj ((exec_srst s).symm.trans h)
    exact nomatch ht
  · rcases exec_cases hi h with rfl | raised | ⟨rc, u, he, rfl⟩
    · exact nomatch hrun.symm.trans ht
    · exact raised
    · exact nomatch (hrun.symm.trans he.faulted_eq.symm).trans ht

theorem writeCmd_raises {w : Word32} (hrun : s.Running) (h : writeCmd w s = .next t) (ht : t.faulted = true) :
    ∃ c info, t = s.raise c w info := by
  rcases writeCmd_cases w s with ⟨i, rfl, hexec⟩ | hillegal
  · exact exec_raises hrun (hexec.symm.trans h) ht
  · rw [hillegal, illegalWord_of_running hrun] at h
    exact ⟨_, _, (Host.Outcome.next.inj h).symm⟩

end

/-- Settles O9: the step serves the write to `CMD`, and what raises a fault there does nothing else. -/
theorem faultsArePrecise : Obligations.FaultsArePrecise := by
  refine ⟨fun i s t => exec_raises, fun s t w rest hin hrun hhost h ht => ?_⟩
  rw [step_serve hhost, serve_write_cmd (s := { s with host := rest }) hin] at h
  exact writeCmd_raises (s := { s with host := rest, port := .written }) hrun h ht

end Sys2Proof.Machine
end

section
/-! Family 60_exceptions, part 2. The checks of a command in their order (60_exceptions R253): a term that is no command,
the instance range (30_encoding R93), the `valid` bit. -/

namespace Sys2Proof.Machine

/-! ## The instance checks come first -/

/-- The outcome is the range check of the instance the word selects, and what follows the check is `UNINIT` for a command
that does not construct, on an instance that is not constructed. -/
def InstanceChecked (i : Instr) (s : State) (o : CmdOutcome) : Prop :=
  ∃ k, o = checkInst (unitCount s.cfg (unitOf i)) (instOf i) k ∧
    (constructs i = false → instValid s (unitOf i) (instOf i) = false → k = .faults .uninit 0)

section
variable {i : Instr} {s : State} {inst : Idx}

/-- A constructing command looks at the range only. -/
theorem InstanceChecked.construct {n : Nat} {k : CmdOutcome} (hn : unitCount s.cfg (unitOf i) = n)
    (hi : instOf i = inst) (hc : constructs i = true) : InstanceChecked i s (checkInst n inst k) := by
  subst hn hi
  exact ⟨k, rfl, fun hc' => nomatch hc.symm.trans hc'⟩

/-- The `valid` check of an instance without a value. -/
theorem checkValid_of_isSome_eq_false {α : Type} {o : Option α} (h : o.isSome = false) (k : α → CmdOutcome) :
    checkValid o k = .faults .uninit 0 := by
  rw [Option.isSome_eq_false_iff, Option.isNone_iff_eq_none] at h
  rw [h, checkValid_none]

theorem InstanceChecked.withBq (k : Biquad → CmdOutcome) (hu : unitOf i = 1) (hi : instOf i = inst) :
    InstanceChecked i s (withBq s inst k) := by
  subst hi
  rw [InstanceChecked, hu]
  exact ⟨_, rfl, fun _ hv => checkValid_of_isSome_eq_false hv k⟩

theorem InstanceChecked.withSvf (k : Svf → CmdOutcome) (hu : unitOf i = 2) (hi : instOf i = inst) :
    InstanceChecked i s (withSvf s inst k) := by
  subst hi
  rw [InstanceChecked, hu]
  exact ⟨_, rfl, fun _ hv => checkValid_of_isSome_eq_false hv k⟩

theorem InstanceChecked.withSpl (k : Splitter → CmdOutcome) (hu : unitOf i = 3) (hi : instOf i = inst) :
    InstanceChecked i s (withSpl s inst k) := by
  subst hi
  rw [InstanceChecked, hu]
  exact ⟨_, rfl, fun _ hv => checkValid_of_isSome_eq_false hv k⟩

theorem InstanceChecked.withEnv (k : Envelope → CmdOutcome) (hu : unitOf i = 4) (hi : instOf i = inst) :
    InstanceChecked i s (withEnv s inst k) := by
  subst hi
  rw [InstanceChecked, hu]
  exact ⟨_, rfl, fun _ hv => checkValid_of_isSome_eq_false hv k⟩

/-- A pattern is always valid (10_state R51), so only its range is checked. -/
theorem InstanceChecked.withPat (k : Pattern → CmdOutcome) (hu : unitOf i = 5) (hi : instOf i = inst) :
    InstanceChecked i s (withPat s inst k) := by
  subst hi
  rw [InstanceChecked, hu]
  exact ⟨_, rfl, fun _ hv => nomatch hv⟩

end

/-! ## Every command -/

/-- Every well-formed command with an instance field checks its instance before its own rule. -/
theorem exec_instanceChecked {i : Instr} (s : State) (hwf : WellFormed i) (hinst : hasInst i = true) :
    ∃ o, exec i s = command i s o ∧ InstanceChecked i s o := by
  cases i
  case nop | srst | patSclr | patSpush => exact nomatch hinst
  case bqInit | svfInit | splInit | envInit =>
    exact ⟨_, rfl, .construct (by rw [unitOf_eq]; rfl) (instOf_eq _) rfl⟩
  case bqDsgn inst rs1 kind =>
    refine ⟨_, rfl, ?_⟩
    rw [if_pos (show kind.forBiquad = true from hwf)]
    exact .withBq _ (unitOf_eq _) (instOf_eq _)
  case splRd inst rd slot field =>
    refine ⟨_, rfl, ?_⟩
    rw [if_pos (show splSelector slot field = true from hwf)]
    exact .withSpl _ (unitOf_eq _) (instOf_eq _)
  case bqSetc | bqProc | bqStab | bqRd => exact ⟨_, rfl, .withBq _ (unitOf_eq _) (instOf_eq _)⟩
  case svfSetf | svfSetq | svfSetsr | svfSetg | svfProc | svfRd =>
    exact ⟨_, rfl, .withSvf _ (unitOf_eq _) (instOf_eq _)⟩
  case splSetf | splSplit | splGain => exact ⟨_, rfl, .withSpl _ (unitOf_eq _) (instOf_eq _)⟩
  case envTick | envSetrel | envProg | envDur | envRd => exact ⟨_, rfl, .withEnv _ (unitOf_eq _) (instOf_eq _)⟩
  case patDflt | patClr | patEval | patIns | patRm | patRmpos | patRmrng | patInv | patRev | patRdpt | patLen |
      patScommit =>
    exact ⟨_, rfl, .withPat _ (unitOf_eq _) (instOf_eq _)⟩

/-- Only a `BQ.DSGN` and an `SPL.RD` with a selector out of range are no commands, and both test their selector first
(log entry 9). -/
theorem exec_of_not_wellFormed {i : Instr} (s : State) (hwf : ¬ WellFormed i) :
    exec i s = command i s (.faults .illegalCmd 0) := by
  cases i
  case bqDsgn inst rs1 kind =>
    have hkind : ¬ kind.forBiquad = true := hwf
    rw [exec, execBqDsgn, if_neg hkind]
  case splRd inst rd slot field =>
    have hsel : ¬ splSelector slot field = true := hwf
    rw [exec, execSplRd, if_neg hsel]
  all_goals exact absurd rfl hwf

theorem command_faults {i : Instr} {s : State} (hrun : s.Running) (c : FaultCause) (info : Word32) :
    command i s (.faults c info) = .next (s.raise c (encode i) info) :=
  (command_of_running hrun).trans (settle_faults ..)

/-- Settles O10: the selector is tested before the instance, the range before the `valid` bit. -/
theorem decodeRangeAndValidChecksInOrder : Obligations.DecodeRangeAndValidChecksInOrder := by
  refine fun i s hrun => ⟨fun hwf => ?_, fun hwf hinst hrange => ?_, fun hwf hinst hrange hc hv => ?_⟩
  · exact (exec_of_not_wellFormed s hwf).trans (command_faults hrun ..)
  · obtain ⟨_, hexec, k, rfl, -⟩ := exec_instanceChecked s hwf hinst
    rw [hexec, checkInst_of_not_lt (Nat.not_lt.2 hrange)]
    exact command_faults hrun ..
  · obtain ⟨_, hexec, k, rfl, huninit⟩ := exec_instanceChecked s hwf hinst
    rw [hexec, checkInst_of_lt hrange, huninit hc hv]
    exact command_faults hrun ..

end Sys2Proof.Machine
end

section
/-! Family 60_exceptions, part 3. The result codes (60_exceptions R252): which commands give a code other than `OK`, and
that such a code is all a command then writes. -/

namespace Sys2Proof.Machine

/-- The commands that may complete with a result code (10_state R36, 60_exceptions R252). -/
def GivesCode : ResultCode → Op → Prop
  | .ok, _ => True
  | .noValue, o => o = .envTick
  | .badPoint, o => o = .patIns ∨ o = .patSpush
  | .badPattern, o => o = .patScommit
  | .boundary, o => o = .patRm
  | .index, o => o = .patRm ∨ o = .patRdpt ∨ o = .splRd
  | .full, o => o = .patIns ∨ o = .patSpush

/-- What a command may answer once it runs, by its result code: a fault, `OK` in any state, or a code of its own in the
state it found. -/
inductive Answers (o : Op) (s : State) : CmdOutcome → Prop where
  | faults (c : FaultCause) (info : Word32) : Answers o s (.faults c info)
  | ok (u : State) : Answers o s (.completes .ok u)
  | code {rc : ResultCode} (h : GivesCode rc o) : Answers o s (.completes rc s)

section
variable {o : Op} {s : State}

theorem Answers.checkInst {n : Nat} {inst : Idx} {k : CmdOutcome} (h : Answers o s k) :
    Answers o s (checkInst n inst k) := by
  rcases checkInst_cases n inst k with ⟨-, e⟩ | ⟨-, e⟩ <;> rw [e]
  · exact h
  · exact .faults _ _

/-- Both checks of a unit with a `valid` bit. -/
theorem Answers.checked {α : Type} {n : Nat} {inst : Idx} {v : Option α} {k : α → CmdOutcome}
    (h : ∀ a, Answers o s (k a)) : Answers o s (Machine.checkInst n inst (checkValid v k)) := by
  rcases checked_cases n inst v k with ⟨-, e⟩ | ⟨-, -, e⟩ | ⟨-, a, -, e⟩ <;> rw [e]
  · exact .faults _ _
  · exact .faults _ _
  · exact h a

theorem Answers.withPat {inst : Idx} {k : Pattern → CmdOutcome} (h : ∀ p, Answers o s (k p)) :
    Answers o s (withPat s inst k) :=
  .checkInst (h _)

theorem Answers.svfSetter (inst : Idx) (v : F64) (stored : Svf → F64) (store : Svf → F64 → Svf) :
    Answers o s (svfSetter s inst v stored store) := by
  rcases svfSetter_cases s inst v stored store with ⟨c, e⟩ | ⟨u, -, -, ⟨-, e⟩ | ⟨-, e⟩⟩ <;> rw [e]
  · exact .faults _ _
  · exact .ok _
  · exact .ok _

/-- A tick of a complete envelope is the only one without a value (44_envelope R184). -/
theorem Answers.tickEnv (inst : Idx) (rd : Reg) (e : Envelope) : Answers .envTick s (tickEnv s inst rd e) := by
  rcases tickEnv_cases s inst rd e with ⟨-, h⟩ | ⟨-, h⟩ | ⟨-, v, -, h⟩ | ⟨-, v, -, h⟩ | ⟨-, c, info, h⟩ <;> rw [h]
  · exact .code rfl
  · exact .ok _
  · exact .ok _
  · exact .ok _
  · exact .faults _ _

end

/-- Every command other than `SRST` answers a fault, `OK`, or a code of its own without a change of state. -/
theorem exec_answers {i : Instr} (s : State) (hi : i ≠ .srst) : ∃ o, exec i s = command i s o ∧ Answers i.op s o := by
  cases i
  case srst => exact absurd rfl hi
  case nop | patSclr => exact ⟨_, rfl, .ok _⟩
  case bqInit | svfInit | splInit => exact ⟨_, rfl, .checkInst (.ok _)⟩
  case bqSetc | bqProc | bqStab | bqRd | svfProc | svfRd | splSetf | envSetrel | envProg | envDur | envRd =>
    exact ⟨_, rfl, .checked fun _ => .ok _⟩
  case patDflt | patClr | patRmrng | patInv | patRev | patLen => exact ⟨_, rfl, .withPat fun _ => .ok _⟩
  case svfSetf | svfSetq | svfSetsr | svfSetg => exact ⟨_, rfl, .svfSetter ..⟩
  case envTick => exact ⟨_, rfl, .checked fun _ => .tickEnv ..⟩
  case bqDsgn =>
    refine ⟨_, rfl, ?_⟩
    split
    · exact .checked fun _ => .ok _
    · exact .faults _ _
  case splSplit | splGain =>
    refine ⟨_, rfl, .checked fun _ => ?_⟩
    split
    · exact .ok _
    · exact .faults _ _
  case splRd =>
    refine ⟨_, rfl, ?_⟩
    split
    · refine .checked fun _ => ?_
      split
      · exact .ok _
      · exact .code (.inr (.inr rfl))
    · exact .faults _ _
  case envInit =>
    refine ⟨_, rfl, .checkInst ?_⟩
    split
    · exact .ok _
    · exact .faults _ _
  case patEval =>
    refine ⟨_, rfl, .withPat fun _ => ?_⟩
    split
    · exact .ok _
    · exact .faults _ _
  case patIns =>
    refine ⟨_, rfl, .withPat fun _ => ?_⟩
    dsimp only
    split
    · exact .code (.inl rfl)
    · split
      · exact .code (.inl rfl)
      · exact .ok _
  case patSpush =>
    refine ⟨_, rfl, ?_⟩
    dsimp only
    split
    · exact .code (.inr rfl)
    · split
      · exact .code (.inr rfl)
      · exact .ok _
  case patRm =>
    refine ⟨_, rfl, .withPat fun _ => ?_⟩
    dsimp only
    split
    · exact .code rfl
    · split
      · exact .code (.inl rfl)
      · exact .ok _
  case patRmpos =>
    refine ⟨_, rfl, .withPat fun _ => ?_⟩
    split <;> exact .ok _
  case patRdpt =>
    refine ⟨_, rfl, .withPat fun _ => ?_⟩
    split
    · exact .ok _
    · exact .code (.inr (.inl rfl))
  case patScommit =>
    refine ⟨_, rfl, .withPat fun _ => ?_⟩
    split
    · exact .ok _
    · exact .code rfl

/-- A completing command with a code other than `OK` writes that code, one of its own, and nothing else. -/
theorem exec_errorCode {i : Instr} {s t : State} (hrun : s.Running) (h : exec i s = .next t) (ht : t.faulted = false)
    (hrc : t.rc ≠ .ok) : t = { s with rc := t.rc } ∧ GivesCode t.rc i.op := by
  by_cases hi : i = .srst
  · subst hi
    obtain rfl := Host.Outcome.next.inj ((exec_srst s).symm.trans h)
    exact absurd rfl hrc
  · obtain ⟨o, hexec, hanswers⟩ := exec_answers s hi
    rw [hexec, command_of_running hrun] at h
    cases hanswers with
    | faults c info =>
      obtain rfl := Host.Outcome.next.inj h
      exact nomatch ht
    | ok u =>
      obtain rfl := Host.Outcome.next.inj h
      exact absurd rfl hrc
    | code hcode =>
      obtain rfl := Host.Outcome.next.inj h
      exact ⟨rfl, hcode⟩

/-- Settles O12: the commands of each code are those of `GivesCode`. -/
theorem errorCodesChangeOnlyRc : Obligations.ErrorCodesChangeOnlyRc := by
  intro i s t hrun h ht hrc
  obtain ⟨hstate, hcode⟩ := exec_errorCode hrun h ht hrc
  have given {rc : ResultCode} (e : t.rc = rc) : GivesCode rc i.op := e ▸ hcode
  exact ⟨hstate, given, given, given, given, given, given⟩

end Sys2Proof.Machine
end

section
/-! Family 70_reset_and_hazards. The reset input (70_reset R280): its two edges give the reset values, and between them no
transaction is served. The parameters stay (R283). -/

namespace Sys2Proof.Machine

section
variable {s : State} {rest : List HostTxn}

/-- Both edges of the reset input give the reset values: its assertion in every state, its release while it is asserted. -/
theorem driveReset_of_edge {asserted : Bool} (hedge : (asserted || s.inReset) = true) :
    driveReset asserted s = { s.afterReset with inReset := asserted, port := .silent } :=
  if_pos hedge

/-- The step of an edge of the reset input keeps the configuration and what the host still has to do, and nothing else. -/
theorem step_reset_edge {asserted : Bool} (hedge : (asserted || s.inReset) = true)
    (hhost : s.host = .resetLine asserted :: rest) :
    step s = .next { State.reset with cfg := s.cfg, inReset := asserted, host := rest, port := .silent } := by
  rw [step_serve hhost, serve, driveReset_of_edge (s := { s with host := rest }) hedge, State.afterReset]

/-- A transaction while the reset input is asserted is dropped: CORE does not answer it. -/
theorem serve_of_inReset {tx : HostTxn} (hin : s.inReset = true) (htx : ∀ b, tx ≠ .resetLine b) :
    serve tx s = .next (s.reply .silent) :=
  (serve_transaction s htx).trans (if_pos hin)

end

/-- Settles O19: the step serves the reset event as an edge or as a release that resets nothing, and a transaction of the
host as one that finds the reset input asserted. -/
theorem resetInputResetsAndBlocks : Obligations.ResetInputResetsAndBlocks := by
  refine ⟨fun s rest hhost => ?asserts, fun s rest tx hin hhost htx => ?blocked, fun s rest hin hhost => ?releases,
    fun s rest hin hhost => ?idle⟩
  case asserts => exact step_reset_edge (Bool.true_or _) hhost
  case blocked => exact (step_serve hhost).trans (serve_of_inReset (s := { s with host := rest }) hin htx)
  case releases => exact step_reset_edge ((Bool.false_or _).trans hin) hhost
  case idle => rw [step_serve hhost, serve, driveReset_false_of_released (s := { s with host := rest }) hin, State.reply]

end Sys2Proof.Machine
end
